-- ==== Sys2Proof/Word.lean ====
section
/-! DEFINITION. The word types of the video core (00_scope.md rule R9): a byte is 8 bits, a word 16, a
long 32; and colours as triples of bytes (rule R12). -/

namespace Sys2Proof

/-- 8 bits (00_scope.md rule R9). -/
abbrev Byte := BitVec 8

/-- 16 bits (00_scope.md rule R9). -/
abbrev Word := BitVec 16

/-- 32 bits (00_scope.md rule R9). -/
abbrev Long := BitVec 32

/-- A colour inside the background fetcher and the compositor (00_scope.md rule R12). -/
structure Color where
  r : Byte
  g : Byte
  b : Byte
deriving DecidableEq, Repr, Inhabited

/-- A `Coord`: a pair of mathematical integers (00_scope.md rule R13). -/
structure Coord where
  x : Int
  y : Int
deriving DecidableEq, Repr, Inhabited

end Sys2Proof
end

