-- ==== Sys2Proof/Config.lean ====
section
/-! DEFINITION. What is fixed for one machine and never written by a step (00_scope.md rule R8): the
sizes, the phase names, the timing tables with the spec's defaults, the parameters record, the inputs an
environment can give (rule R14), and the free values, which have no body. -/

namespace Sys2Proof.Config

/-- `VRAM1_BYTES` (00_scope.md rule R8). -/
def vram1Bytes : Nat := 0x80000

/-- `FB_BYTES`, the size of each of the two sprite framebuffers (00_scope.md rule R8). -/
def fbBytes : Nat := 0x40000

/-- `VRAM2_BYTES` (00_scope.md rule R8). -/
def vram2Bytes : Nat := 0x80000

/-- `CRAM_BYTES` (00_scope.md rule R8). -/
def cramBytes : Nat := 0x1000

/-- `REG1_BYTES` (00_scope.md rule R8). -/
def reg1Bytes : Nat := 0x18

/-- `REG2_BYTES` (00_scope.md rule R8). -/
def reg2Bytes : Nat := 0x400

/-- `MAX_OUT_W`, the length of every line buffer (00_scope.md rule R8, 10_state.md rule R67). -/
def maxOutW : Nat := 704

/-- `PERIPH_LEAD_LINES` (00_scope.md rule R8, 43_display_timing.md rule R291). -/
def periphLeadLines : Nat := 1

end Sys2Proof.Config

namespace Sys2Proof

/-- The horizontal phases (10_state.md rule R50). -/
inductive HPhase where
  | active | rightBorder | sync | vblankOut | leftBorder | lastDot
deriving DecidableEq, Repr, Inhabited

/-- The vertical phases (10_state.md rule R50). -/
inductive VPhase where
  | active | bottomBorder | blankingAndSync | topBorder | lastLine
deriving DecidableEq, Repr, Inhabited

/-- One record of the table `HT`: scheduler cycles spent in each horizontal phase (43_display_timing.md
rule R282). -/
structure HTimes where
  active : Nat
  rightBorder : Nat
  sync : Nat
  vblankOut : Nat
  leftBorder : Nat
  lastDot : Nat
deriving DecidableEq, Repr, Inhabited

/-- One record of the table `VT`: the first line of each vertical phase after `VActive`, and the number of
lines of a frame (43_display_timing.md rule R283, columns A, B, C, L, T). -/
structure VTimes where
  bottomBorder : Nat
  blankingAndSync : Nat
  topBorder : Nat
  lastLine : Nat
  total : Nat
deriving DecidableEq, Repr, Inhabited

/-- A table of four rows, read with a two-bit index. -/
structure Table4 (α : Type) where
  row0 : α
  row1 : α
  row2 : α
  row3 : α
deriving DecidableEq, Repr, Inhabited

/-- The row of a two-bit index. -/
def Table4.at {α : Type} (t : Table4 α) (i : BitVec 2) : α :=
  match i.toNat with
  | 0 => t.row0
  | 1 => t.row1
  | 2 => t.row2
  | _ => t.row3

/-- The parameters of the step relation (00_scope.md rule R8, 10_state.md rule R20): the OPEN tables `HT` and
`VT`, the flag `PAL`, and `HARD_RESET_PATTERN` as the cells in which each memory's fill differs from the
default pattern (10_state.md rule R26). A step reads them and never writes them (assumption log 3). -/
structure Params where
  ht : Table4 HTimes
  vtNtsc : Table4 VTimes
  vtPal : Table4 VTimes
  pal : Bool
  fillVram1 : List (Nat × Byte)
  fillVram2 : List (Nat × Byte)
  fillCram : List (Nat × Byte)
deriving DecidableEq, Repr, Inhabited

/-- The default table `HT` (43_display_timing.md rule R282). -/
def Config.defaultHT : Table4 HTimes :=
  { row0 := ⟨1280, 104, 136, 104, 80, 4⟩
    row1 := ⟨1408, 104, 136, 88, 80, 4⟩
    row2 := ⟨1280, 104, 136, 104, 80, 4⟩
    row3 := ⟨1408, 104, 136, 88, 80, 4⟩ }

/-- The default table `VT[false]` (43_display_timing.md rule R283). -/
def Config.defaultVTNtsc : Table4 VTimes :=
  { row0 := ⟨224, 232, 255, 262, 263⟩
    row1 := ⟨240, 243, 255, 262, 263⟩
    row2 := ⟨256, 257, 259, 262, 263⟩
    row3 := ⟨256, 257, 259, 262, 263⟩ }

/-- The default table `VT[true]` (43_display_timing.md rule R283). -/
def Config.defaultVTPal : Table4 VTimes :=
  { row0 := ⟨224, 256, 281, 312, 313⟩
    row1 := ⟨240, 264, 281, 312, 313⟩
    row2 := ⟨256, 272, 281, 312, 313⟩
    row3 := ⟨256, 272, 281, 312, 313⟩ }

/-- The parameters at the defaults the spec takes: default tables, `PAL = false`, the default reset pattern. -/
def Config.defaultParams : Params :=
  { ht := Config.defaultHT
    vtNtsc := Config.defaultVTNtsc
    vtPal := Config.defaultVTPal
    pal := false
    fillVram1 := []
    fillVram2 := []
    fillCram := [] }

/-- The six regions of the bus (20_memory.md rule R80). -/
inductive Region where
  | vram1 | fb | reg1 | vram2 | cram | reg2
deriving DecidableEq, Repr, Inhabited

/-- The three access widths of the bus (20_memory.md rule R84). -/
inductive Width where
  | byte | word | long
deriving DecidableEq, Repr, Inhabited

/-- The two handlers a periodic scheduler event is registered with (43_display_timing.md rule R281). -/
inductive Handler where
  | normal | debug
deriving DecidableEq, Repr, Inhabited

/-- One input of the environment: the three kinds of step (00_scope.md rule R14), the two resets
(70_reset_and_hazards.md rule R480) and the debug dump (20_memory.md rule R99). `commands n` is
`ProcessCommands(n)` (42_command_processor.md rule R222). -/
inductive Input where
  | busRead (region : Region) (offset : Nat) (width : Width)
  | busWrite (region : Region) (offset : Nat) (width : Width) (value : Long)
  | phaseEvent (handler : Handler)
  | commands (count : Nat)
  | hardReset
  | softReset
  | dump (region : Region)
deriving DecidableEq, Repr, Inhabited

/-- The Gouraud table of a command: four words, one for each vertex (30_encoding.md rule R123). -/
structure GouraudTable where
  a : Word
  b : Word
  c : Word
  d : Word
deriving DecidableEq, Repr, Inhabited

/-- FREE VALUE. The environment's choice of the input at each point where the state lists none
(70_reset_and_hazards.md rule R497: the schedule is the environment's; assumption log 1). -/
opaque Config.envChoice : Nat → Input

/-- FREE VALUE. The parameter `GOURAUD(g, row, N, k, dmaj, v)` (42_command_processor.md rule R237; assumption
log 4). -/
opaque Config.gouraud : GouraudTable → Nat → Nat → Nat → Nat → Word → Word

/-- FREE VALUE. The content of entry `i` of the `n`-th fresh output buffer before it is written (10_state.md
rule R70; assumption log 5). -/
opaque Config.freshPixel : Nat → Nat → Long

end Sys2Proof
end

