-- ==== Sys2Proof/Machine/State.lean ====
section
/-! DEFINITION. The state of the core (10_state.md rule R20), the ways a step can stop, and the state after
construction, which is a hard reset (70_reset_and_hazards.md rules R480, R481, R483, R484). -/

namespace Sys2Proof.Machine

/-! ### Memories and registers -/

/-- A byte memory: the cells whose byte differs from what an unlisted offset reads as, offsets rising. -/
abbrev Memory := List Host.Cell

/-- The five byte arrays that are memories (10_state.md rule R25; the two register regions are views). -/
inductive MemId where
  | vram1 | fb0 | fb1 | vram2 | cram
deriving DecidableEq, Repr, Inhabited

/-- The arena of rule R93 of 20_memory.md: VRAM1, the two sprite framebuffers, VRAM2, CRAM. -/
structure Arena where
  vram1 : Memory
  fb0 : Memory
  fb1 : Memory
  vram2 : Memory
  cram : Memory
deriving DecidableEq, Repr

/-- The register fields of the sprite processor (10_state.md rule R27). COPR is a view of `cmdAddr`. -/
structure Reg1 where
  vblankErase : BitVec 1
  tvMode : BitVec 3
  fbSwapMode : BitVec 1
  fbSwapTrigger : BitVec 1
  plotTrigger : BitVec 2
  eraseFill : Word
  eraseX1 : BitVec 6
  eraseY1 : BitVec 9
  eraseX3 : BitVec 7
  eraseY3 : BitVec 9
  cef : BitVec 1
  bef : BitVec 1
deriving DecidableEq, Repr

/-- The latches and the draw index of the FramebufferManager (10_state.md rules R28, R29); `drawIndex` is false for
buffer 0 and true for buffer 1. -/
structure FbControl where
  manualSwap : Bool
  manualErase : Bool
  drawIndex : Bool
deriving DecidableEq, Repr

/-- The RenderContext (10_state.md rules R30, R31, R33). -/
structure RenderContext where
  rendering : Bool
  cmdAddr : BitVec 19
  retValid : Bool
  retAddr : BitVec 19
  sysClipH : BitVec 10
  sysClipV : BitVec 9
  userClipX0 : BitVec 10
  userClipY0 : BitVec 9
  userClipX1 : BitVec 10
  userClipY1 : BitVec 9
  localX : BitVec 13
  localY : BitVec 13
  drawCalls : Nat
deriving DecidableEq, Repr

/-- The timing state (10_state.md rules R50 to R54). -/
structure Timing where
  hphase : HPhase
  vphase : VPhase
  vcnt : Nat
  actHRES : BitVec 3
  actVRES : BitVec 2
  actLSMD : BitVec 2
  resPending : Bool
  periphDone : Bool
deriving DecidableEq, Repr

/-- The configuration record `Cfg2` as the registers of region REG2 (10_state.md rules R56 to R58): the fields
that are not zero, by index `k`, rising. -/
abbrev Cfg2 := List (Nat × Word)

/-! ### Accumulators and line buffers -/

/-- The layer slots (10_state.md rule R58). -/
inductive Slot where
  | sprite | rbg0 | nbg0 | nbg1 | nbg2 | nbg3
deriving DecidableEq, Repr, Inhabited

/-- The two rotation parameter sets (10_state.md rule R64). -/
inductive ParamSet where
  | a | b
deriving DecidableEq, Repr, Inhabited

/-- One value for each layer slot. -/
structure PerSlot (α : Type) where
  sprite : α
  rbg0 : α
  nbg0 : α
  nbg1 : α
  nbg2 : α
  nbg3 : α
deriving DecidableEq, Repr

/-- The accumulators of a scrollable slot (10_state.md rule R63). -/
structure ScrollAcc where
  fracY : Int
  lsAddr : BitVec 19
  lsX : Int
  lsY : Int
  lzX : Int
deriving DecidableEq, Repr

/-- The record read from a rotation parameter table (30_encoding.md rule R135). -/
structure RotRecord where
  xst : Int
  yst : Int
  zst : Int
  dXst : Int
  dYst : Int
  dX : Int
  dY : Int
  a : Int
  b : Int
  c : Int
  d : Int
  e : Int
  f : Int
  px : Int
  py : Int
  pz : Int
  cx : Int
  cy : Int
  cz : Int
  mx : Int
  my : Int
  kx : Int
  ky : Int
  kast : Int
  dKast : Int
  dKax : Int
deriving DecidableEq, Repr

/-- The record and the accumulators of a rotation parameter set (10_state.md rule R64). -/
structure RotAcc where
  rp : RotRecord
  xstAcc : Int
  ystAcc : Int
  kaAcc : Int
deriving DecidableEq, Repr

/-- Per-frame and per-line accumulators (10_state.md rules R63, R64, R66). -/
structure Accumulators where
  nbg0 : ScrollAcc
  nbg1 : ScrollAcc
  nbg2 : ScrollAcc
  nbg3 : ScrollAcc
  rotA : RotAcc
  rotB : RotAcc
  lineColor : Color
  backColor : Color
deriving DecidableEq, Repr

/-- One entry of `layer[L]` (10_state.md rule R67). -/
structure LayerDot where
  color : Color
  transparent : Bool
  priority : BitVec 3
  specialColorCalc : Bool
deriving DecidableEq, Repr, Inhabited

/-- One entry of `spr` (10_state.md rule R68). -/
structure SpriteDot where
  msbSet : Bool
  colorCalcRatio : BitVec 3
  shadowOrWindow : Bool
  normalShadow : Bool
deriving DecidableEq, Repr, Inhabited

/-- One entry of `rotCoord[L]` (10_state.md rule R65). -/
structure RotCoord where
  sx : Int
  sy : Int
  transparent : Bool
deriving DecidableEq, Repr, Inhabited

/-- The line buffers (10_state.md rules R65, R67 to R69), `MAX_OUT_W` entries each; `rotCoord1` and `rotCoord2`
are those of slots 1 and 2. -/
structure LineBuffers where
  layer : PerSlot (List LayerDot)
  spr : List SpriteDot
  win : PerSlot (List Bool)
  winCC : List Bool
  winRP : List Bool
  rotCoord1 : List RotCoord
  rotCoord2 : List RotCoord
deriving DecidableEq, Repr

/-! ### Output -/

/-- The output frame (10_state.md rule R70): its size, the rows written since it was fresh, by row number,
rising, and its number among the fresh buffers, which names the unspecified content of what is not written
(assumption log 5). -/
structure OutFrame where
  width : Nat
  height : Nat
  fresh : Nat
  rows : List (Nat × List Long)
deriving DecidableEq, Repr

/-- The outbound triggers (60_exceptions.md rule R455). -/
inductive Trigger where
  | hblankStart | vblankStart | vblankEnd | spriteDrawEnd | peripheralRead
deriving DecidableEq, Repr

/-- The records of `out` (60_exceptions.md rules R455, R457). -/
inductive OutRecord where
  | trigger (t : Trigger)
  | frameComplete (frame : OutFrame) (width height : Nat)
  | resolutionChange (width height : Nat)
  | drawCallCounters (count : Nat)
  | bufferSwap
deriving DecidableEq, Repr

/-- The four error categories (60_exceptions.md rule R452). -/
inductive DiagCode where
  | e1 | e2 | e3 | e4
deriving DecidableEq, Repr

/-- The records of `diag` (60_exceptions.md rule R451); category E4 logs nothing. -/
inductive DiagRecord where
  /-- E1: an illegal access of `width` bytes. -/
  | illegalAccess (region : Region) (offset width : Nat) (isWrite : Bool)
  /-- E2: an unhandled register. -/
  | unhandledRegister (region : Region) (offset : Nat) (isWrite : Bool)
  /-- E2: an unhandled command. -/
  | unhandledCommand (addr : BitVec 19) (ctrl pmod : Word)
  /-- E3: malformed control flow. -/
  | malformedJump (addr : BitVec 19)
deriving DecidableEq, Repr

/-- What a step hands back to the collaborator that took it: the value of a bus read, the cycle count of a phase
event (43_display_timing.md rule R284), the bytes of a dump. The model's own (assumption log 11). -/
inductive StepResult where
  | nothing
  | data (value : Long)
  | cycles (count : Nat)
  | bytes (dumped : List Byte)
deriving DecidableEq, Repr

/-- The state of the core and, beside it, the parameters it runs under and the model's own fields: the inputs
still listed (`sched`), the count of free inputs taken (`tick`), what the last step handed back (`result`) and
the number of fresh output buffers so far (`freshCount`). -/
structure State where
  params : Params
  mem : Arena
  reg1 : Reg1
  fbc : FbControl
  ctx : RenderContext
  timing : Timing
  cfg2 : Cfg2
  acc : Accumulators
  buf : LineBuffers
  outFrame : OutFrame
  out : List OutRecord
  diag : List DiagRecord
  sched : List Input
  tick : Nat
  result : StepResult
  freshCount : Nat
deriving DecidableEq, Repr

/-! ### How a step can stop -/

/-- The faults: none. "The core raises no exception, takes no trap and has no handler" (60_exceptions.md rule
R450; assumption log 21). -/
inductive Fault where
deriving DecidableEq, Repr

/-- The refusals. -/
inductive Refusal where
  /-- An arm of `exec` without a meaning, by its mnemonic. Safe: the model stops. Raised by no arm of this model. -/
  | notModelled (mnemonic : String)
  /-- A command step, erase, swap or composed scanline while `tvMode` is not 0 or `SPTYPE` is 8 or more
  (93_implementation_defined.md U6). Raised by the operations of a command, the erase, the swap and the scanline.
  Safe: the model stops where the spec refuses the configuration. -/
  | spriteMode
  /-- A composed scanline in a reserved background configuration (44_background.md rule R321,
  93_implementation_defined.md U7). Raised by the scanline. Safe: the model stops where the spec refuses. -/
  | backgroundConfig
deriving DecidableEq, Repr

/-! ### Reset -/

/-- The registers after reset (10_state.md rule R27). -/
def Reg1.reset : Reg1 :=
  { vblankErase := 0, tvMode := 0, fbSwapMode := 0, fbSwapTrigger := 0, plotTrigger := 0, eraseFill := 0,
    eraseX1 := 0, eraseY1 := 0, eraseX3 := 0, eraseY3 := 0, cef := 0, bef := 0 }

/-- The latches and the draw index after reset (10_state.md rules R28, R29). -/
def FbControl.reset : FbControl := { manualSwap := false, manualErase := false, drawIndex := false }

/-- The RenderContext after reset (10_state.md rules R30, R33). -/
def RenderContext.reset : RenderContext :=
  { rendering := false, cmdAddr := 0, retValid := false, retAddr := 0, sysClipH := 511, sysClipV := 255,
    userClipX0 := 0, userClipY0 := 0, userClipX1 := 511, userClipY1 := 255, localX := 0, localY := 0, drawCalls := 0 }

/-- The timing state after reset (10_state.md rules R50 to R54). -/
def Timing.reset : Timing :=
  { hphase := .active, vphase := .active, vcnt := 0, actHRES := 0, actVRES := 0, actLSMD := 0, resPending := false,
    periphDone := false }

/-- An accumulator of a scrollable slot after reset (10_state.md rule R63). -/
def ScrollAcc.reset : ScrollAcc := { fracY := 0, lsAddr := 0, lsX := 0, lsY := 0, lzX := 0 }

/-- A rotation record of zeros (10_state.md rule R64). -/
def RotRecord.zero : RotRecord :=
  { xst := 0, yst := 0, zst := 0, dXst := 0, dYst := 0, dX := 0, dY := 0, a := 0, b := 0, c := 0, d := 0, e := 0,
    f := 0, px := 0, py := 0, pz := 0, cx := 0, cy := 0, cz := 0, mx := 0, my := 0, kx := 0, ky := 0, kast := 0,
    dKast := 0, dKax := 0 }

/-- A rotation set after reset (10_state.md rule R64). -/
def RotAcc.reset : RotAcc := { rp := RotRecord.zero, xstAcc := 0, ystAcc := 0, kaAcc := 0 }

/-- The accumulators after reset (10_state.md rules R63, R64, R66). -/
def Accumulators.reset : Accumulators :=
  { nbg0 := ScrollAcc.reset, nbg1 := ScrollAcc.reset, nbg2 := ScrollAcc.reset, nbg3 := ScrollAcc.reset,
    rotA := RotAcc.reset, rotB := RotAcc.reset, lineColor := ⟨0, 0, 0⟩, backColor := ⟨0, 0, 0⟩ }

/-- A transparent entry of a layer: the reset value of rule R67 of 10_state.md and the `transparentPixel` of rule
R320 of 44_background.md. -/
def LayerDot.clear : LayerDot :=
  { color := ⟨0, 0, 0⟩, transparent := true, priority := 0, specialColorCalc := false }

/-- An entry of `spr` after reset (10_state.md rule R68). -/
def SpriteDot.clear : SpriteDot :=
  { msbSet := false, colorCalcRatio := 0, shadowOrWindow := false, normalShadow := false }

/-- An entry of `rotCoord` after reset (70_reset_and_hazards.md rule R483). -/
def RotCoord.clear : RotCoord := { sx := 0, sy := 0, transparent := false }

/-- The same value for every slot. -/
def PerSlot.all {α : Type} (v : α) : PerSlot α :=
  { sprite := v, rbg0 := v, nbg0 := v, nbg1 := v, nbg2 := v, nbg3 := v }

/-- The line buffers after reset (70_reset_and_hazards.md rule R483). -/
def LineBuffers.reset : LineBuffers :=
  { layer := PerSlot.all (List.replicate Config.maxOutW LayerDot.clear)
    spr := List.replicate Config.maxOutW SpriteDot.clear
    win := PerSlot.all (List.replicate Config.maxOutW false)
    winCC := List.replicate Config.maxOutW false
    winRP := List.replicate Config.maxOutW false
    rotCoord1 := List.replicate Config.maxOutW RotCoord.clear
    rotCoord2 := List.replicate Config.maxOutW RotCoord.clear }

/-- The machine right after construction, a hard reset (70_reset_and_hazards.md rules R480 to R484): every field at
its reset value, memories at the reset pattern, row 0 of the fresh 320 by 224 output frame at the constant of a
disabled display, nothing recorded yet, no input listed. -/
def State.reset : State :=
  { params := Config.defaultParams
    mem := { vram1 := [], fb0 := [], fb1 := [], vram2 := [], cram := [] }
    reg1 := Reg1.reset
    fbc := FbControl.reset
    ctx := RenderContext.reset
    timing := Timing.reset
    cfg2 := []
    acc := Accumulators.reset
    buf := LineBuffers.reset
    outFrame := { width := 320, height := 224, fresh := 0, rows := [(0, List.replicate 320 0xFF000000#32)] }
    out := []
    diag := []
    sched := []
    tick := 0
    result := .nothing
    freshCount := 1 }

end Sys2Proof.Machine
end

