-- ==== Sys2Proof/Machine/Ops.lean ====
section
/-! DEFINITION. The named operations over memory and the output lists: cells in canonical form, the five
memories, big-endian reads, the two framebuffer accessors, `log` and `trigger`, and the sequencing of outcomes
(20_memory.md rules R83, R92, R93; 41_framebuffer.md rules R201, R202; 60_exceptions.md rules R451, R455). -/

namespace Sys2Proof.Machine

/-! ### Cells in canonical form -/

/-- The value listed at a key, if one is. -/
def lookupCell {β : Type} : List (Nat × β) → Nat → Option β
  | [], _ => none
  | (k, v) :: rest, a => if k = a then some v else lookupCell rest a

/-- The list without any entry of a key. -/
def removeCell {β : Type} : List (Nat × β) → Nat → List (Nat × β)
  | [], _ => []
  | (k, v) :: rest, a => if k = a then removeCell rest a else (k, v) :: removeCell rest a

/-- The list with a key's entry set, keys rising. -/
def insertCell {β : Type} : List (Nat × β) → Nat → β → List (Nat × β)
  | [], a, v => [(a, v)]
  | (k, w) :: rest, a, v =>
    if a < k then (a, v) :: (k, w) :: rest
    else if a = k then (a, v) :: rest
    else (k, w) :: insertCell rest a v

/-- What a key reads as: its entry, or the background where none is listed. -/
def readCell {β : Type} (bg : Nat → β) (m : List (Nat × β)) (a : Nat) : β := (lookupCell m a).getD (bg a)

/-- Set what a key reads as; writing the background removes the entry. -/
def writeCell {β : Type} [DecidableEq β] (bg : Nat → β) (m : List (Nat × β)) (a : Nat) (v : β) : List (Nat × β) :=
  if v = bg a then removeCell m a else insertCell m a v

/-- The keys are strictly rising and none is below `lo`. -/
def risingFrom {β : Type} : Nat → List (Nat × β) → Bool
  | _, [] => true
  | lo, (k, _) :: rest => decide (lo ≤ k) && risingFrom (k + 1) rest

/-- The canonical form: keys strictly rising, no entry equal to the background. -/
def cellsCanonical {β : Type} [DecidableEq β] (bg : Nat → β) (m : List (Nat × β)) : Bool :=
  risingFrom 0 m && m.all fun c => decide (c.2 ≠ bg c.1)

/-! ### The five memories -/

/-- The sizes (00_scope.md rule R8). -/
def MemId.size : MemId → Nat
  | .vram1 => Config.vram1Bytes
  | .fb0 => Config.fbBytes
  | .fb1 => Config.fbBytes
  | .vram2 => Config.vram2Bytes
  | .cram => Config.cramBytes

/-- What an unlisted byte reads as: the default hard-reset pattern for VRAM1, VRAM2 and CRAM (10_state.md rule R26),
the cleared framebuffers (rule R25). -/
def unlistedByte : MemId → Nat → Byte
  | .vram1, a => if a % 32 = 0 then 0x80 else if a % 32 = 1 then 0x00 else 0x55
  | .fb0, _ => 0x00
  | .fb1, _ => 0x00
  | .vram2, _ => 0x00
  | .cram, _ => 0x00

/-- One memory of the arena. -/
def Arena.get (m : Arena) : MemId → Memory
  | .vram1 => m.vram1
  | .fb0 => m.fb0
  | .fb1 => m.fb1
  | .vram2 => m.vram2
  | .cram => m.cram

/-- The arena with one memory replaced. -/
def Arena.set (m : Arena) : MemId → Memory → Arena
  | .vram1, v => { m with vram1 := v }
  | .fb0, v => { m with fb0 := v }
  | .fb1, v => { m with fb1 := v }
  | .vram2, v => { m with vram2 := v }
  | .cram, v => { m with cram := v }

/-- A memory is well formed: canonical form, every listed offset inside the memory. -/
def Memory.wf (id : MemId) (m : Memory) : Bool :=
  cellsCanonical (unlistedByte id) m && m.all fun c => decide (c.1 < id.size)

/-- Every memory of the arena is well formed. -/
def Arena.wf (m : Arena) : Bool :=
  Memory.wf .vram1 m.vram1 && Memory.wf .fb0 m.fb0 && Memory.wf .fb1 m.fb1 && Memory.wf .vram2 m.vram2 &&
    Memory.wf .cram m.cram

/-- One byte of a memory; the offset is reduced modulo the memory's size (20_memory.md rule R93). -/
def Arena.read8 (m : Arena) (id : MemId) (a : Nat) : Byte :=
  readCell (unlistedByte id) (m.get id) (a % id.size)

/-- Write one byte of a memory; the offset is reduced modulo the memory's size (20_memory.md rule R93). -/
def Arena.write8 (m : Arena) (id : MemId) (a : Nat) (v : Byte) : Arena :=
  m.set id (writeCell (unlistedByte id) (m.get id) (a % id.size) v)

/-- A big-endian word (20_memory.md rule R83). At an even offset this is `{mem[m], mem[m+1]}` with `m` the reduced
offset; see assumption log 13 for odd ones. -/
def Arena.read16 (m : Arena) (id : MemId) (a : Nat) : Word := m.read8 id a ++ m.read8 id (a + 1)

/-- A big-endian long, read as two words (20_memory.md rules R83, R92). -/
def Arena.read32 (m : Arena) (id : MemId) (a : Nat) : Long := m.read16 id a ++ m.read16 id (a + 2)

/-- Write a big-endian word: the high byte at the lower offset (20_memory.md rules R83, R87). -/
def Arena.write16 (m : Arena) (id : MemId) (a : Nat) (v : Word) : Arena :=
  (m.write8 id a (v.extractLsb' 8 8)).write8 id (a + 1) (v.extractLsb' 0 8)

/-! ### Draw and display buffers -/

/-- The buffer of an index (10_state.md rule R29). -/
def fbOf (index : Bool) : MemId := if index then .fb1 else .fb0

/-- The buffer with the draw role (10_state.md rule R29). -/
def State.drawBuffer (s : State) : MemId := fbOf s.fbc.drawIndex

/-- The buffer with the display role (10_state.md rule R29). -/
def State.displayBuffer (s : State) : MemId := fbOf (!s.fbc.drawIndex)

/-- `FbOff(x, y)` (30_encoding.md rule R125). -/
def fbOff (x y : Int) : Nat := (((y * 512 + x) * 2) % (Config.fbBytes : Int)).toNat

/-- `FbWrite(x, y, v)` on the arena (41_framebuffer.md rule R201). -/
def Arena.fbWrite (m : Arena) (buffer : MemId) (x y : Int) (v : Word) : Arena := m.write16 buffer (fbOff x y) v

/-- `FbReadDisplay(x, y)` (41_framebuffer.md rule R202). -/
def State.fbReadDisplay (s : State) (x y : Int) : Word := s.mem.read16 s.displayBuffer (fbOff x y)

/-! ### Records -/

/-- `log(...)`: append a diagnostic record (60_exceptions.md rule R451). -/
def State.log (s : State) (r : DiagRecord) : State := { s with diag := s.diag ++ [r] }

/-- Append a record to `out` (10_state.md rule R71). -/
def State.emit (s : State) (r : OutRecord) : State := { s with out := s.out ++ [r] }

/-- `trigger(t)` (60_exceptions.md rule R455). -/
def State.trigger (s : State) (t : Trigger) : State := s.emit (.trigger t)

/-- The category of a record (60_exceptions.md rules R451, R452). -/
def DiagRecord.code : DiagRecord → DiagCode
  | .illegalAccess .. => .e1
  | .unhandledRegister .. => .e2
  | .unhandledCommand .. => .e2
  | .malformedJump _ => .e3

/-! ### The control word of the command being executed -/

/-- The control word at `cmdAddr`, as a diagnostic record of the command carries it (60_exceptions.md rule R451;
assumption log 14). -/
def State.ctrlAtCmd (s : State) : Word := s.mem.read16 .vram1 s.ctx.cmdAddr.toNat

/-- `log(E2)` of a command (60_exceptions.md rule R451). -/
def State.logCommand (s : State) (pmod : Word) : State :=
  s.log (.unhandledCommand s.ctx.cmdAddr s.ctrlAtCmd pmod)

/-! ### Outcomes -/

/-- Run `k` on the next state; a fault or a refusal is the outcome of the whole. -/
def andThen (o : Host.Outcome State Fault Refusal) (k : State → Host.Outcome State Fault Refusal) :
    Host.Outcome State Fault Refusal :=
  match o with
  | .next s => k s
  | .fault r => .fault r
  | .refused r => .refused r

end Sys2Proof.Machine
end

