-- ==== Sys2Proof/Machine/Registers.lean ====
section
/-! DEFINITION. The fields of `Cfg2` by name (10_state.md rules R56 to R61): which indices of region REG2 hold a
field and how wide it is, and one accessor for each field. A field of one bit is read as a Bool, any other as the
number its bits denote. -/

namespace Sys2Proof.Machine

/-- The widths of the global fields, `k` from 0 to 90 (10_state.md rule R57). -/
def globalFieldWidths : List Nat :=
  [1, 3, 2, 2, 2, 1, 8, 1, 3, 16, 1, 3, 16] ++
  [10, 9, 10, 9, 1, 3, 16, 10, 9, 10, 9, 1, 3] ++
  [16, 2, 3, 16, 1, 1, 2, 1, 3, 16, 1, 1, 2] ++
  [1, 3, 16, 2, 2, 16, 16, 7, 8, 8, 4, 3, 16] ++
  [4, 1, 1, 2, 3, 1, 3, 3, 3, 3, 3, 3, 3] ++
  [3, 5, 5, 5, 5, 5, 5, 5, 5, 1, 1, 1, 7] ++
  [5, 5, 9, 9, 9, 9, 9, 9, 1, 1, 1, 1, 1]

/-- The widths of the fields of a layer, `j` from 0 to 49; 0 where `j` holds no field (10_state.md rule R58). -/
def layerFieldWidths : List Nat :=
  [1, 1, 1, 3, 1, 2, 2, 3, 1, 1, 2, 3, 3, 2, 2, 1, 7] ++
  [1, 5, 1, 1, 1, 1, 1, 11, 8, 11, 8, 11, 11, 6, 0, 3, 16] ++
  [16, 16, 16, 16, 16, 16, 16, 16, 16, 16, 16, 16, 16, 16, 16, 16]

/-- The width of the field at index `k`, if `k` holds one: global fields at 0..90, field `j` of slot `L` at
`128 + 64*L + j` (10_state.md rules R56 to R58, 60_exceptions.md rule R453). -/
def fieldWidth (k : Nat) : Option Nat :=
  if k < 128 then globalFieldWidths[k]?
  else if k < 512 then
    match layerFieldWidths[(k - 128) % 64]? with
    | some (w + 1) => some (w + 1)
    | _ => none
  else none

/-- A register of REG2 that is not listed reads 0 (10_state.md rule R56). -/
def unlistedField (_ : Nat) : Word := 0

/-- `Cfg2` is well formed: canonical form, every listed index holds a field and the value fits its width. -/
def Cfg2.wf (c : Cfg2) : Bool :=
  cellsCanonical unlistedField c &&
    c.all fun e =>
      match fieldWidth e.1 with
      | some w => decide (e.2.toNat < 2 ^ w)
      | none => false

/-- The `w` bits of the field at index `k`. -/
def Cfg2.bits (c : Cfg2) (k w : Nat) : BitVec w := (readCell unlistedField c k).setWidth w

/-- The number the `w` bits of the field at index `k` denote. -/
def Cfg2.num (c : Cfg2) (k w : Nat) : Nat := (c.bits k w).toNat

/-- The one-bit field at index `k`. -/
def Cfg2.flag (c : Cfg2) (k : Nat) : Bool := (readCell unlistedField c k).getLsbD 0

/-! ### Global fields (10_state.md rule R57) -/

/-- DISP, index 0. -/
def Cfg2.disp (c : Cfg2) : Bool := c.flag 0

/-- HRES, index 1. -/
def Cfg2.hres (c : Cfg2) : BitVec 3 := c.bits 1 3

/-- VRES, index 2. -/
def Cfg2.vres (c : Cfg2) : BitVec 2 := c.bits 2 2

/-- LSMD, index 3. -/
def Cfg2.lsmd (c : Cfg2) : BitVec 2 := c.bits 3 2

/-- CRMD, index 4. -/
def Cfg2.crmd (c : Cfg2) : Nat := c.num 4 2

/-- CRKTE, index 5. -/
def Cfg2.crkte (c : Cfg2) : Bool := c.flag 5

/-- RDBS, index 6. -/
def Cfg2.rdbs (c : Cfg2) : Nat := c.num 6 8

/-- BKCLMD, index 7. -/
def Cfg2.bkclmd (c : Cfg2) : Bool := c.flag 7

/-- BKTA_HI, index 8. -/
def Cfg2.bktaHi (c : Cfg2) : Nat := c.num 8 3

/-- BKTA_LO, index 9. -/
def Cfg2.bktaLo (c : Cfg2) : Nat := c.num 9 16

/-- LCCLMD, index 10. -/
def Cfg2.lcclmd (c : Cfg2) : Bool := c.flag 10

/-- LCTA_HI, index 11. -/
def Cfg2.lctaHi (c : Cfg2) : Nat := c.num 11 3

/-- LCTA_LO, index 12. -/
def Cfg2.lctaLo (c : Cfg2) : Nat := c.num 12 16

/-- W0_SX, index 13. -/
def Cfg2.w0Sx (c : Cfg2) : Nat := c.num 13 10

/-- W0_SY, index 14. -/
def Cfg2.w0Sy (c : Cfg2) : Nat := c.num 14 9

/-- W0_EX, index 15. -/
def Cfg2.w0Ex (c : Cfg2) : Nat := c.num 15 10

/-- W0_EY, index 16. -/
def Cfg2.w0Ey (c : Cfg2) : Nat := c.num 16 9

/-- W0_LWE, index 17. -/
def Cfg2.w0Lwe (c : Cfg2) : Bool := c.flag 17

/-- W0_LWTA_HI, index 18. -/
def Cfg2.w0LwtaHi (c : Cfg2) : Nat := c.num 18 3

/-- W0_LWTA_LO, index 19. -/
def Cfg2.w0LwtaLo (c : Cfg2) : Nat := c.num 19 16

/-- W1_SX, index 20. -/
def Cfg2.w1Sx (c : Cfg2) : Nat := c.num 20 10

/-- W1_SY, index 21. -/
def Cfg2.w1Sy (c : Cfg2) : Nat := c.num 21 9

/-- W1_EX, index 22. -/
def Cfg2.w1Ex (c : Cfg2) : Nat := c.num 22 10

/-- W1_EY, index 23. -/
def Cfg2.w1Ey (c : Cfg2) : Nat := c.num 23 9

/-- W1_LWE, index 24. -/
def Cfg2.w1Lwe (c : Cfg2) : Bool := c.flag 24

/-- W1_LWTA_HI, index 25. -/
def Cfg2.w1LwtaHi (c : Cfg2) : Nat := c.num 25 3

/-- W1_LWTA_LO, index 26. -/
def Cfg2.w1LwtaLo (c : Cfg2) : Nat := c.num 26 16

/-- RPMD, index 27. -/
def Cfg2.rpmd (c : Cfg2) : Nat := c.num 27 2

/-- RPTA_HI, index 28. -/
def Cfg2.rptaHi (c : Cfg2) : Nat := c.num 28 3

/-- RPTA_LO, index 29. -/
def Cfg2.rptaLo (c : Cfg2) : Nat := c.num 29 16

/-- KTE_A, index 30. -/
def Cfg2.kteA (c : Cfg2) : Bool := c.flag 30

/-- KDBS_A, index 31. -/
def Cfg2.kdbsA (c : Cfg2) : Bool := c.flag 31

/-- KMD_A, index 32. -/
def Cfg2.kmdA (c : Cfg2) : Nat := c.num 32 2

/-- KDOT_A, index 33. -/
def Cfg2.kdotA (c : Cfg2) : Bool := c.flag 33

/-- KTBASE_A_HI, index 34. -/
def Cfg2.ktbaseHiA (c : Cfg2) : Nat := c.num 34 3

/-- KTBASE_A_LO, index 35. -/
def Cfg2.ktbaseLoA (c : Cfg2) : Nat := c.num 35 16

/-- KTE_B, index 36. -/
def Cfg2.kteB (c : Cfg2) : Bool := c.flag 36

/-- KDBS_B, index 37. -/
def Cfg2.kdbsB (c : Cfg2) : Bool := c.flag 37

/-- KMD_B, index 38. -/
def Cfg2.kmdB (c : Cfg2) : Nat := c.num 38 2

/-- KDOT_B, index 39. -/
def Cfg2.kdotB (c : Cfg2) : Bool := c.flag 39

/-- KTBASE_B_HI, index 40. -/
def Cfg2.ktbaseHiB (c : Cfg2) : Nat := c.num 40 3

/-- KTBASE_B_LO, index 41. -/
def Cfg2.ktbaseLoB (c : Cfg2) : Nat := c.num 41 16

/-- OVER_A, index 42. -/
def Cfg2.overA (c : Cfg2) : Nat := c.num 42 2

/-- OVER_B, index 43. -/
def Cfg2.overB (c : Cfg2) : Nat := c.num 43 2

/-- OVPN_A, index 44. -/
def Cfg2.ovpnA (c : Cfg2) : Nat := c.num 44 16

/-- OVPN_B, index 45. -/
def Cfg2.ovpnB (c : Cfg2) : Nat := c.num 45 16

/-- RPWCTL, index 46, a window set (10_state.md rule R60). -/
def Cfg2.rpwctl (c : Cfg2) : BitVec 7 := c.bits 46 7

/-- SFCODE_A, index 47. -/
def Cfg2.sfcodeA (c : Cfg2) : Nat := c.num 47 8

/-- SFCODE_B, index 48. -/
def Cfg2.sfcodeB (c : Cfg2) : Nat := c.num 48 8

/-- MZSZH, index 49. -/
def Cfg2.mzszh (c : Cfg2) : Nat := c.num 49 4

/-- VCSTA_HI, index 50. -/
def Cfg2.vcstaHi (c : Cfg2) : Nat := c.num 50 3

/-- VCSTA_LO, index 51. -/
def Cfg2.vcstaLo (c : Cfg2) : Nat := c.num 51 16

/-- SPTYPE, index 52. -/
def Cfg2.sptype (c : Cfg2) : Nat := c.num 52 4

/-- SPCLMD, index 53. -/
def Cfg2.spclmd (c : Cfg2) : Bool := c.flag 53

/-- SPWINEN, index 54. -/
def Cfg2.spwinen (c : Cfg2) : Bool := c.flag 54

/-- SPCCCS, index 55. -/
def Cfg2.spcccs (c : Cfg2) : Nat := c.num 55 2

/-- SPCCN, index 56. -/
def Cfg2.spccn (c : Cfg2) : Nat := c.num 56 3

/-- R1ON, index 57. -/
def Cfg2.r1on (c : Cfg2) : Bool := c.flag 57

/-- CCMD, index 74. -/
def Cfg2.ccmd (c : Cfg2) : Bool := c.flag 74

/-- CCRTMD, index 75. -/
def Cfg2.ccrtmd (c : Cfg2) : Bool := c.flag 75

/-- EXCCEN, index 76. -/
def Cfg2.exccen (c : Cfg2) : Bool := c.flag 76

/-- CCWCTL, index 77, a window set (10_state.md rule R60). -/
def Cfg2.ccwctl (c : Cfg2) : BitVec 7 := c.bits 77 7

/-- LCCCRT, index 78. -/
def Cfg2.lcccrt (c : Cfg2) : Nat := c.num 78 5

/-- BKCCRT, index 79. -/
def Cfg2.bkccrt (c : Cfg2) : Nat := c.num 79 5

/-- COA_R, index 80, read as `sext_9` (10_state.md rule R59). -/
def Cfg2.coaR (c : Cfg2) : Int := (c.bits 80 9).toInt

/-- COA_G, index 81, read as `sext_9` (10_state.md rule R59). -/
def Cfg2.coaG (c : Cfg2) : Int := (c.bits 81 9).toInt

/-- COA_B, index 82, read as `sext_9` (10_state.md rule R59). -/
def Cfg2.coaB (c : Cfg2) : Int := (c.bits 82 9).toInt

/-- COB_R, index 83, read as `sext_9` (10_state.md rule R59). -/
def Cfg2.cobR (c : Cfg2) : Int := (c.bits 83 9).toInt

/-- COB_G, index 84, read as `sext_9` (10_state.md rule R59). -/
def Cfg2.cobG (c : Cfg2) : Int := (c.bits 84 9).toInt

/-- COB_B, index 85, read as `sext_9` (10_state.md rule R59). -/
def Cfg2.cobB (c : Cfg2) : Int := (c.bits 85 9).toInt

/-- LCCCEN, index 86. -/
def Cfg2.lcccen (c : Cfg2) : Bool := c.flag 86

/-- BKCCEN, index 87. -/
def Cfg2.bkccen (c : Cfg2) : Bool := c.flag 87

/-- BKCOEN, index 88. -/
def Cfg2.bkcoen (c : Cfg2) : Bool := c.flag 88

/-- BKCOSL, index 89. -/
def Cfg2.bkcosl (c : Cfg2) : Bool := c.flag 89

/-- BKSDEN, index 90. -/
def Cfg2.bksden (c : Cfg2) : Bool := c.flag 90

/-- SPPRI[i], index `58 + i`. -/
def Cfg2.sppri (c : Cfg2) (i : Nat) : BitVec 3 := c.bits (58 + i) 3

/-- SPCCRT[i], index `66 + i`. -/
def Cfg2.spccrt (c : Cfg2) (i : Nat) : Nat := c.num (66 + i) 5

/-! ### Per-layer fields (10_state.md rule R58) -/

/-- The number of a slot (10_state.md rule R58). -/
def Slot.number : Slot → Nat
  | .sprite => 0
  | .rbg0 => 1
  | .nbg0 => 2
  | .nbg1 => 3
  | .nbg2 => 4
  | .nbg3 => 5

/-- The index of field `j` of a slot (10_state.md rule R58). -/
def Slot.fieldIndex (L : Slot) (j : Nat) : Nat := 128 + 64 * L.number + j

/-- ON, j = 0. -/
def Cfg2.on (c : Cfg2) (L : Slot) : Bool := c.flag (L.fieldIndex 0)

/-- TPEN, j = 1. -/
def Cfg2.tpen (c : Cfg2) (L : Slot) : Bool := c.flag (L.fieldIndex 1)

/-- BMEN, j = 2. -/
def Cfg2.bmen (c : Cfg2) (L : Slot) : Bool := c.flag (L.fieldIndex 2)

/-- CHCN, j = 3. -/
def Cfg2.chcn (c : Cfg2) (L : Slot) : Nat := c.num (L.fieldIndex 3) 3

/-- CHSZ, j = 4. -/
def Cfg2.chsz (c : Cfg2) (L : Slot) : Bool := c.flag (L.fieldIndex 4)

/-- PLSZ, j = 5. -/
def Cfg2.plsz (c : Cfg2) (L : Slot) : Nat := c.num (L.fieldIndex 5) 2

/-- BMSZ, j = 6. -/
def Cfg2.bmsz (c : Cfg2) (L : Slot) : Nat := c.num (L.fieldIndex 6) 2

/-- BMPAL, j = 7. -/
def Cfg2.bmpal (c : Cfg2) (L : Slot) : Nat := c.num (L.fieldIndex 7) 3

/-- BMSPR, j = 8. -/
def Cfg2.bmspr (c : Cfg2) (L : Slot) : Bool := c.flag (L.fieldIndex 8)

/-- BMSCC, j = 9. -/
def Cfg2.bmscc (c : Cfg2) (L : Slot) : Bool := c.flag (L.fieldIndex 9)

/-- BMBASE, j = 10. -/
def Cfg2.bmbase (c : Cfg2) (L : Slot) : Nat := c.num (L.fieldIndex 10) 2

/-- CAOS, j = 11. -/
def Cfg2.caos (c : Cfg2) (L : Slot) : Nat := c.num (L.fieldIndex 11) 3

/-- PRIN, j = 12. -/
def Cfg2.prin (c : Cfg2) (L : Slot) : BitVec 3 := c.bits (L.fieldIndex 12) 3

/-- SPRM, j = 13. -/
def Cfg2.sprm (c : Cfg2) (L : Slot) : Nat := c.num (L.fieldIndex 13) 2

/-- SCCM, j = 14. -/
def Cfg2.sccm (c : Cfg2) (L : Slot) : Nat := c.num (L.fieldIndex 14) 2

/-- SFSEL, j = 15. -/
def Cfg2.sfsel (c : Cfg2) (L : Slot) : Bool := c.flag (L.fieldIndex 15)

/-- WCTL, j = 16, a window set (10_state.md rule R60). -/
def Cfg2.wctl (c : Cfg2) (L : Slot) : BitVec 7 := c.bits (L.fieldIndex 16) 7

/-- CCEN, j = 17. -/
def Cfg2.ccen (c : Cfg2) (L : Slot) : Bool := c.flag (L.fieldIndex 17)

/-- CCRT, j = 18. -/
def Cfg2.ccrt (c : Cfg2) (L : Slot) : Nat := c.num (L.fieldIndex 18) 5

/-- LCEN, j = 19. -/
def Cfg2.lcen (c : Cfg2) (L : Slot) : Bool := c.flag (L.fieldIndex 19)

/-- COEN, j = 20. -/
def Cfg2.coen (c : Cfg2) (L : Slot) : Bool := c.flag (L.fieldIndex 20)

/-- COSL, j = 21. -/
def Cfg2.cosl (c : Cfg2) (L : Slot) : Bool := c.flag (L.fieldIndex 21)

/-- SDEN, j = 22. -/
def Cfg2.sden (c : Cfg2) (L : Slot) : Bool := c.flag (L.fieldIndex 22)

/-- MZE, j = 23. -/
def Cfg2.mze (c : Cfg2) (L : Slot) : Bool := c.flag (L.fieldIndex 23)

/-- SCX_I, j = 24. -/
def Cfg2.scxI (c : Cfg2) (L : Slot) : Nat := c.num (L.fieldIndex 24) 11

/-- SCX_F, j = 25. -/
def Cfg2.scxF (c : Cfg2) (L : Slot) : Nat := c.num (L.fieldIndex 25) 8

/-- SCY_I, j = 26. -/
def Cfg2.scyI (c : Cfg2) (L : Slot) : Nat := c.num (L.fieldIndex 26) 11

/-- SCY_F, j = 27. -/
def Cfg2.scyF (c : Cfg2) (L : Slot) : Nat := c.num (L.fieldIndex 27) 8

/-- ZMX, j = 28. -/
def Cfg2.zmx (c : Cfg2) (L : Slot) : Nat := c.num (L.fieldIndex 28) 11

/-- ZMY, j = 29. -/
def Cfg2.zmy (c : Cfg2) (L : Slot) : Nat := c.num (L.fieldIndex 29) 11

/-- LSCTL, j = 30. -/
def Cfg2.lsctl (c : Cfg2) (L : Slot) : BitVec 6 := c.bits (L.fieldIndex 30) 6

/-- LSTA_HI, j = 32. -/
def Cfg2.lstaHi (c : Cfg2) (L : Slot) : Nat := c.num (L.fieldIndex 32) 3

/-- LSTA_LO, j = 33. -/
def Cfg2.lstaLo (c : Cfg2) (L : Slot) : Nat := c.num (L.fieldIndex 33) 16

/-- PLANE[i], `j = 34 + i`. -/
def Cfg2.plane (c : Cfg2) (L : Slot) (i : Nat) : Nat := c.num (L.fieldIndex (34 + i)) 16

/-! ### Combined values (10_state.md rules R59, R61) -/

/-- A 19-bit byte address of a `_HI` and a `_LO` field, its bit 0 forced to 0 (10_state.md rule R59). -/
def tableAddress (hi lo : Nat) : Nat := (hi * 0x10000 + lo) / 2 * 2

/-- BKTA. -/
def Cfg2.bkta (c : Cfg2) : Nat := tableAddress c.bktaHi c.bktaLo

/-- LCTA. -/
def Cfg2.lcta (c : Cfg2) : Nat := tableAddress c.lctaHi c.lctaLo

/-- RPTA. -/
def Cfg2.rpta (c : Cfg2) : Nat := tableAddress c.rptaHi c.rptaLo

/-- VCSTA. -/
def Cfg2.vcsta (c : Cfg2) : Nat := tableAddress c.vcstaHi c.vcstaLo

/-- LSTA[L]. -/
def Cfg2.lsta (c : Cfg2) (L : Slot) : Nat := tableAddress (c.lstaHi L) (c.lstaLo L)

/-- SCX[L], 11.8 fixed point. -/
def Cfg2.scx (c : Cfg2) (L : Slot) : Nat := c.scxI L * 256 + c.scxF L

/-- SCY[L], 11.8 fixed point. -/
def Cfg2.scy (c : Cfg2) (L : Slot) : Nat := c.scyI L * 256 + c.scyF L

/-- KTE of a parameter set. -/
def Cfg2.kte (c : Cfg2) : ParamSet → Bool
  | .a => c.kteA
  | .b => c.kteB

/-- KDBS of a parameter set. -/
def Cfg2.kdbs (c : Cfg2) : ParamSet → Bool
  | .a => c.kdbsA
  | .b => c.kdbsB

/-- KMD of a parameter set. -/
def Cfg2.kmd (c : Cfg2) : ParamSet → Nat
  | .a => c.kmdA
  | .b => c.kmdB

/-- KDOT of a parameter set. -/
def Cfg2.kdot (c : Cfg2) : ParamSet → Bool
  | .a => c.kdotA
  | .b => c.kdotB

/-- KTBASE of a parameter set. -/
def Cfg2.ktbase (c : Cfg2) : ParamSet → Nat
  | .a => tableAddress c.ktbaseHiA c.ktbaseLoA
  | .b => tableAddress c.ktbaseHiB c.ktbaseLoB

/-- OVER of a parameter set. -/
def Cfg2.over (c : Cfg2) : ParamSet → Nat
  | .a => c.overA
  | .b => c.overB

/-- OVPN of a parameter set. -/
def Cfg2.ovpn (c : Cfg2) : ParamSet → Nat
  | .a => c.ovpnA
  | .b => c.ovpnB

/-- `rotExclusive` (10_state.md rule R61). -/
def Cfg2.rotExclusive (c : Cfg2) : Bool := c.on .rbg0 && c.r1on

/-- Whether a slot is enabled (10_state.md rule R61). -/
def Cfg2.enabled (c : Cfg2) : Slot → Bool
  | .sprite => true
  | .rbg0 => c.on .rbg0
  | .nbg0 => c.rotExclusive || c.on .nbg0
  | .nbg1 => !c.rotExclusive && c.on .nbg1
  | .nbg2 => !c.rotExclusive && c.on .nbg2
  | .nbg3 => !c.rotExclusive && c.on .nbg3

/-- Whether a slot shows a rotation layer: slot 1, and slot 2 in rotation-exclusive mode (10_state.md rule R61,
44_background.md rule R320). -/
def Cfg2.isRotation (c : Cfg2) : Slot → Bool
  | .rbg0 => true
  | .nbg0 => c.rotExclusive
  | .sprite => false
  | .nbg1 => false
  | .nbg2 => false
  | .nbg3 => false

/-- Whether a slot is enabled as a scrollable layer (44_background.md rule R324). -/
def Cfg2.enabledScroll (c : Cfg2) (L : Slot) : Bool :=
  L != .sprite && c.enabled L && !c.isRotation L

/-- The value of a slot. -/
def PerSlot.get {α : Type} (p : PerSlot α) : Slot → α
  | .sprite => p.sprite
  | .rbg0 => p.rbg0
  | .nbg0 => p.nbg0
  | .nbg1 => p.nbg1
  | .nbg2 => p.nbg2
  | .nbg3 => p.nbg3

/-- The values with one slot's replaced. -/
def PerSlot.set {α : Type} (p : PerSlot α) : Slot → α → PerSlot α
  | .sprite, v => { p with sprite := v }
  | .rbg0, v => { p with rbg0 := v }
  | .nbg0, v => { p with nbg0 := v }
  | .nbg1, v => { p with nbg1 := v }
  | .nbg2, v => { p with nbg2 := v }
  | .nbg3, v => { p with nbg3 := v }

end Sys2Proof.Machine
end

