-- ==== Sys2Proof/Machine/Flags.lean ====
section
/-! DEFINITION. The single-bit status values and what is derived from them: the completion marks CEF and BEF, the
resolution request, the resolution in force, and the admitted configurations (10_state.md rules R32, R52, R53;
93_implementation_defined.md U6, U7). The core has no condition codes. -/

namespace Sys2Proof.Machine

/-- `BEF <- CEF; CEF <- 0`: the marks at the start of a frame (10_state.md rule R32, 42_command_processor.md rule
R221). -/
def Reg1.startFrame (r : Reg1) : Reg1 := { r with bef := r.cef, cef := 0 }

/-- `CEF <- 1`: the mark of a complete frame (10_state.md rule R32, 42_command_processor.md rule R223). -/
def Reg1.completeFrame (r : Reg1) : Reg1 := { r with cef := 1 }

/-- `resPending` after a write to HRES, VRES or LSMD (30_encoding.md rule R146). -/
def resolutionPending (c : Cfg2) (t : Timing) : Bool :=
  decide ((c.hres, c.vres, c.lsmd) ≠ (t.actHRES, t.actVRES, t.actLSMD))

/-- `outW` (10_state.md rule R52). -/
def Timing.outW (t : Timing) : Nat :=
  match (t.actHRES.extractLsb' 0 2).toNat with
  | 0 => 320
  | 1 => 352
  | 2 => 640
  | _ => 704

/-- `outH` of a vertical resolution (10_state.md rule R52). -/
def outHOf (vres : BitVec 2) : Nat :=
  match vres.toNat with
  | 0 => 224
  | 1 => 240
  | _ => 256

/-- `outH` (10_state.md rule R52). -/
def Timing.outH (t : Timing) : Nat := outHOf t.actVRES

/-- `hires` (10_state.md rule R52). -/
def Timing.hires (t : Timing) : Bool := t.actHRES.getLsbD 1

/-- `dblInterlace` (10_state.md rule R52). -/
def Timing.dblInterlace (t : Timing) : Bool := t.actLSMD == 3#2

/-- The horizontal times in force, `HT[actHRES[1:0]]` (10_state.md rule R52). -/
def State.ht (s : State) : HTimes := s.params.ht.at (s.timing.actHRES.extractLsb' 0 2)

/-- The vertical table of a `PAL` flag (43_display_timing.md rule R283). -/
def vtTableOf (p : Params) : Table4 VTimes := if p.pal then p.vtPal else p.vtNtsc

/-- The vertical lines in force, `VT[PAL][actVRES]` (10_state.md rule R52). -/
def State.vt (s : State) : VTimes := (vtTableOf s.params).at s.timing.actVRES

/-- The sprite modes the spec admits: `tvMode = 0` and `SPTYPE` below 8 (93_implementation_defined.md U6). -/
def State.spriteAdmitted (s : State) : Bool := s.reg1.tvMode == 0#3 && decide (s.cfg2.sptype < 8)

/-- Run an action in an admitted sprite mode; refuse it otherwise (93_implementation_defined.md U6; assumption log
8). -/
def guardSprite (s : State) (k : State → Host.Outcome State Fault Refusal) : Host.Outcome State Fault Refusal :=
  if s.spriteAdmitted then k s else .refused .spriteMode

/-- A slot's configuration is admitted: not enabled, or a colour format below 5 and, in tile mode, a plane size that
is not 2 (44_background.md rule R321). -/
def Cfg2.slotAdmitted (c : Cfg2) (L : Slot) : Bool :=
  !c.enabled L || (decide (c.chcn L < 5) && (c.bmen L || c.plsz L != 2))

/-- The background configurations the spec admits for a composed scanline (44_background.md rule R321). -/
def Cfg2.backgroundAdmitted (c : Cfg2) : Bool :=
  c.crmd != 3 && c.slotAdmitted .rbg0 && c.slotAdmitted .nbg0 && c.slotAdmitted .nbg1 && c.slotAdmitted .nbg2 &&
    c.slotAdmitted .nbg3

/-- A table `HT` is admissible: every entry is at least 1 (43_display_timing.md rule R282). -/
def hTimesValid (h : HTimes) : Bool :=
  decide (1 ≤ h.active) && decide (1 ≤ h.rightBorder) && decide (1 ≤ h.sync) && decide (1 ≤ h.vblankOut) &&
    decide (1 ≤ h.leftBorder) && decide (1 ≤ h.lastDot)

/-- A record of `VT` is admissible: `0 < A < B < C < L < T`, `L = T - 1` and `A = outH` (43_display_timing.md rule
R283). -/
def vTimesValid (v : VTimes) (outH : Nat) : Bool :=
  decide (v.bottomBorder = outH) && decide (0 < v.bottomBorder) && decide (v.bottomBorder < v.blankingAndSync) &&
    decide (v.blankingAndSync < v.topBorder) && decide (v.topBorder < v.lastLine) &&
    decide (v.lastLine + 1 = v.total)

/-- The rows of a table `VT` are admissible. -/
def vtTableValid (t : Table4 VTimes) : Bool :=
  vTimesValid t.row0 (outHOf 0) && vTimesValid t.row1 (outHOf 1) && vTimesValid t.row2 (outHOf 2) && vTimesValid t.row3 (outHOf 3)

/-- The parameters meet every constraint the spec puts on them (43_display_timing.md rules R282, R283; 10_state.md rule
R26). -/
def paramsValid (p : Params) : Bool :=
  hTimesValid p.ht.row0 && hTimesValid p.ht.row1 && hTimesValid p.ht.row2 && hTimesValid p.ht.row3 &&
    vtTableValid p.vtNtsc && vtTableValid p.vtPal &&
    Memory.wf .vram1 p.fillVram1 && Memory.wf .vram2 p.fillVram2 && Memory.wf .cram p.fillCram

end Sys2Proof.Machine
end

