-- ==== Sys2Proof/Machine/Framebuffer.lean ====
section
/-! DEFINITION. The frame operations that more than one component calls: `BeginFrame`, `EndFrame`, the loop guard
(42_command_processor.md rules R221, R223, R229), and the FramebufferManager's `EraseActive` and `Swap`
(41_framebuffer.md rules R203 to R205). -/

namespace Sys2Proof.Machine

/-- The RenderContext at the start of a frame (42_command_processor.md rule R221). -/
def RenderContext.frameStart : RenderContext := { RenderContext.reset with rendering := true }

/-- `BeginFrame()` (42_command_processor.md rule R221). -/
def beginFrame (s : State) : State := { s with reg1 := s.reg1.startFrame, ctx := RenderContext.frameStart }

/-- `EndFrame()` (42_command_processor.md rule R223). -/
def endFrame (s : State) : State :=
  let s1 : State := { s with ctx := { s.ctx with rendering := false }, reg1 := s.reg1.completeFrame }
  (s1.trigger .spriteDrawEnd).emit (.drawCallCounters s1.ctx.drawCalls)

/-- `LoopGuard()`: log E3, then end the frame (42_command_processor.md rule R229). -/
def loopGuard (s : State) : State := endFrame (s.log (.malformedJump s.ctx.cmdAddr))

/-! ### Erase -/

/-- A pixel rectangle: `xs <= x < xe`, `ys <= y <= ye`. -/
structure Rect where
  xs : Nat
  xe : Nat
  ys : Nat
  ye : Nat
deriving DecidableEq, Repr

/-- The erase rectangle (41_framebuffer.md rule R203). -/
def State.eraseRect (s : State) : Rect :=
  let sH := if s.timing.hires then 1 else 0
  let sV := if s.timing.dblInterlace then 1 else 0
  { xs := (s.reg1.eraseX1.toNat * 8) <<< sH
    xe := min ((s.reg1.eraseX3.toNat * 8) <<< sH) 512
    ys := s.reg1.eraseY1.toNat <<< sV
    ye := min (s.reg1.eraseY3.toNat <<< sV) 255 }

/-- The columns `xs .. xe - 1`. -/
def Rect.columns (r : Rect) : List Nat := (List.range (r.xe - r.xs)).map (r.xs + ·)

/-- The lines `ys .. ye`. -/
def Rect.lines (r : Rect) : List Nat := (List.range (r.ye + 1 - r.ys)).map (r.ys + ·)

/-- The pixels of a rectangle, line by line. -/
def Rect.pixels (r : Rect) : List (Nat × Nat) := r.lines.flatMap fun y => r.columns.map fun x => (x, y)

/-- Fill pixels of one framebuffer with a value. -/
def Arena.fillPixels (m : Arena) (buffer : MemId) (pixels : List (Nat × Nat)) (v : Word) : Arena :=
  pixels.foldl (fun acc p => acc.fbWrite buffer p.1 p.2 v) m

/-- What `EraseActive()` does to the memories: it fills the rectangle of the display-role buffer (41_framebuffer.md
rule R204, 90_conflicts.md C1). -/
def State.eraseDisplay (s : State) : State :=
  { s with mem := s.mem.fillPixels s.displayBuffer s.eraseRect.pixels s.reg1.eraseFill }

/-- `EraseActive()` (41_framebuffer.md rule R204), refused in a sprite mode that is not admitted. -/
def eraseActive (s : State) : Host.Outcome State Fault Refusal := guardSprite s fun s => .next s.eraseDisplay

/-! ### Swap -/

/-- `if fbManualErase: fbManualErase <- false; EraseActive()` (41_framebuffer.md rule R205). -/
def State.serveManualErase (s : State) : State :=
  if s.fbc.manualErase then { s with fbc := { s.fbc with manualErase := false } }.eraseDisplay else s

/-- `drawIndex <- drawIndex xor 1` and the record (41_framebuffer.md rule R205). -/
def State.toggleDraw (s : State) : State :=
  { s with fbc := { s.fbc with drawIndex := !s.fbc.drawIndex } }.emit .bufferSwap

/-- `if plotTrigger = 2: BeginFrame()` (41_framebuffer.md rule R205). -/
def State.restartIfContinuous (s : State) : State := if s.reg1.plotTrigger = 2#2 then beginFrame s else s

/-- `Swap()` (41_framebuffer.md rule R205), refused in a sprite mode that is not admitted. -/
def swap (s : State) : Host.Outcome State Fault Refusal :=
  guardSprite s fun s => .next s.serveManualErase.toggleDraw.restartIfContinuous

end Sys2Proof.Machine
end

