-- ==== Sys2Proof/Machine/Bus.lean ====
section
/-! DEFINITION. The bus: register reads and writes (30_encoding.md rules R140 to R146), `MemRead` and `MemWrite`
(20_memory.md rules R84 to R89), and the debug dump (20_memory.md rule R99). -/

namespace Sys2Proof.Machine

/-! ### Region REG1 (30_encoding.md rules R140 to R142) -/

/-- The word of the sprite processor's register at an even offset, if there is one (30_encoding.md rule R140). -/
def State.reg1Word (s : State) (a : Nat) : Option Word :=
  match a with
  | 0x00 => some (0#12 ++ s.reg1.vblankErase ++ s.reg1.tvMode)
  | 0x02 => some (0#14 ++ s.reg1.fbSwapMode ++ s.reg1.fbSwapTrigger)
  | 0x04 => some (0#14 ++ s.reg1.plotTrigger)
  | 0x06 => some s.reg1.eraseFill
  | 0x08 => some (0#1 ++ s.reg1.eraseX1 ++ s.reg1.eraseY1)
  | 0x0A => some (s.reg1.eraseX3 ++ s.reg1.eraseY3)
  | 0x10 => some (0#14 ++ s.reg1.cef ++ s.reg1.bef)
  | 0x14 => some (s.ctx.cmdAddr.extractLsb' 3 16)
  | _ => none

/-- `log(E2)` of a register (60_exceptions.md rules R451, R453). -/
def State.logRegister (s : State) (r : Region) (a : Nat) (isWrite : Bool) : State :=
  s.log (.unhandledRegister r a isWrite)

/-- The state with other sprite processor registers. -/
def State.withReg1 (s : State) (r : Reg1) : State := { s with reg1 := r }

/-- A write to TVMR (30_encoding.md rule R140). -/
def writeTvmr (s : State) (v : Word) : State :=
  s.withReg1 { s.reg1 with vblankErase := v.extractLsb' 3 1, tvMode := v.extractLsb' 0 3 }

/-- The latches after a write to FBCR (30_encoding.md rule R141). -/
def FbControl.request (f : FbControl) (v : Word) : FbControl :=
  if v.getLsbD 1 then (if v.getLsbD 0 then { f with manualSwap := true } else { f with manualErase := true }) else f

/-- A write to FBCR (30_encoding.md rule R141). -/
def writeFbcr (s : State) (v : Word) : State :=
  { s with
    reg1 := { s.reg1 with fbSwapMode := v.extractLsb' 1 1, fbSwapTrigger := v.extractLsb' 0 1 }
    fbc := s.fbc.request v }

/-- A write to PTMR: a written value of 1 begins a frame inside the bus step (30_encoding.md rule R142). -/
def writePtmr (s : State) (v : Word) : State :=
  let s1 := s.withReg1 { s.reg1 with plotTrigger := v.extractLsb' 0 2 }
  if v.extractLsb' 0 2 = 1#2 then beginFrame s1 else s1

/-- A write to EWDR (30_encoding.md rule R140). -/
def writeEwdr (s : State) (v : Word) : State := s.withReg1 { s.reg1 with eraseFill := v }

/-- A write to EWLR (30_encoding.md rule R140). -/
def writeEwlr (s : State) (v : Word) : State :=
  s.withReg1 { s.reg1 with eraseX1 := v.extractLsb' 9 6, eraseY1 := v.extractLsb' 0 9 }

/-- A write to EWRR (30_encoding.md rule R140). -/
def writeEwrr (s : State) (v : Word) : State :=
  s.withReg1 { s.reg1 with eraseX3 := v.extractLsb' 9 7, eraseY3 := v.extractLsb' 0 9 }

/-- `RegWrite(REG1, a, v)`: EDSR, COPR and every offset that holds no register drop the value and log (30_encoding.md
rule R140). -/
def reg1Write (s : State) (a : Nat) (v : Word) : State :=
  match a with
  | 0x00 => writeTvmr s v
  | 0x02 => writeFbcr s v
  | 0x04 => writePtmr s v
  | 0x06 => writeEwdr s v
  | 0x08 => writeEwlr s v
  | 0x0A => writeEwrr s v
  | _ => s.logRegister .reg1 a true

/-! ### Region REG2 (30_encoding.md rules R145, R146) -/

/-- The word of the background processor's register at an even offset, if there is one (30_encoding.md rule R145). -/
def State.reg2Word (s : State) (a : Nat) : Option Word :=
  match fieldWidth (a / 2) with
  | some _ => some (readCell unlistedField s.cfg2 (a / 2))
  | none => none

/-- The low `w` bits of a word. -/
def lowBits (v : Word) (w : Nat) : Word := v &&& BitVec.ofNat 16 (2 ^ w - 1)

/-- Store a value in a field of `w` bits (30_encoding.md rule R145). -/
def Cfg2.store (c : Cfg2) (k w : Nat) (v : Word) : Cfg2 := writeCell unlistedField c k (lowBits v w)

/-- The index of HRES, VRES or LSMD (30_encoding.md rule R146). -/
def isResolutionField (k : Nat) : Bool := k == 1 || k == 2 || k == 3

/-- The state with field `k` of `w` bits stored, and the resolution request of rule R146 of 30_encoding.md. -/
def State.storeField (s : State) (k w : Nat) (v : Word) : State :=
  let c := s.cfg2.store k w v
  { s with
    cfg2 := c
    timing :=
      if isResolutionField k then { s.timing with resPending := resolutionPending c s.timing } else s.timing }

/-- `RegWrite(REG2, a, v)` (30_encoding.md rules R145, R146). -/
def reg2Write (s : State) (a : Nat) (v : Word) : State :=
  match fieldWidth (a / 2) with
  | some w => s.storeField (a / 2) w v
  | none => s.logRegister .reg2 a true

/-! ### MemRead and MemWrite (20_memory.md rules R84 to R89) -/

/-- The memory behind a region; the register regions have none. Region FB is the buffer with the draw role
(20_memory.md rules R80, R82). -/
def State.memOf (s : State) : Region → Option MemId
  | .vram1 => some .vram1
  | .fb => some s.drawBuffer
  | .vram2 => some .vram2
  | .cram => some .cram
  | .reg1 => none
  | .reg2 => none

/-- The word of a register region at an even offset, if there is one. -/
def State.regWord (s : State) (r : Region) (a : Nat) : Option Word :=
  match r with
  | .reg1 => s.reg1Word a
  | .reg2 => s.reg2Word a
  | _ => none

/-- `log(E1)` (60_exceptions.md rule R451). -/
def State.logIllegal (s : State) (r : Region) (a width : Nat) (isWrite : Bool) : State :=
  s.log (.illegalAccess r a width isWrite)

/-- `MemRead(region, a, 1)` (20_memory.md rules R85, R86). -/
def memRead8 (s : State) (r : Region) (a : Nat) : State × Byte :=
  match s.memOf r with
  | some id => (s, s.mem.read8 id a)
  | none => (s.logIllegal r a 1 false, 0)

/-- `MemRead(region, a, 2)` (20_memory.md rules R86, R88, R89). -/
def memRead16 (s : State) (r : Region) (a : Nat) : State × Word :=
  if a % 2 = 1 then (s.logIllegal r a 2 false, 0)
  else
    match s.memOf r with
    | some id => (s, s.mem.read16 id a)
    | none =>
      match s.regWord r a with
      | some w => (s, w)
      | none => (s.logRegister r a false, 0)

/-- `MemRead(region, a, 4)`: the high half first (20_memory.md rules R84, R86). -/
def memRead32 (s : State) (r : Region) (a : Nat) : State × Long :=
  let hi := memRead16 s r a
  let lo := memRead16 hi.1 r (a + 2)
  (lo.1, hi.2 ++ lo.2)

/-- `MemWrite(region, a, 1, v)` (20_memory.md rules R85, R87). -/
def memWrite8 (s : State) (r : Region) (a : Nat) (v : Byte) : State :=
  match s.memOf r with
  | some id => { s with mem := s.mem.write8 id a v }
  | none => s.logIllegal r a 1 true

/-- `MemWrite(region, a, 2, v)` (20_memory.md rules R87, R88, R89). -/
def memWrite16 (s : State) (r : Region) (a : Nat) (v : Word) : State :=
  if a % 2 = 1 then s.logIllegal r a 2 true
  else
    match r with
    | .reg1 => reg1Write s a v
    | .reg2 => reg2Write s a v
    | .vram1 => { s with mem := s.mem.write16 .vram1 a v }
    | .fb => { s with mem := s.mem.write16 s.drawBuffer a v }
    | .vram2 => { s with mem := s.mem.write16 .vram2 a v }
    | .cram => { s with mem := s.mem.write16 .cram a v }

/-- `MemWrite(region, a, 4, v)`: the high half first (20_memory.md rules R84, R87). -/
def memWrite32 (s : State) (r : Region) (a : Nat) (v : Long) : State :=
  memWrite16 (memWrite16 s r a (v.extractLsb' 16 16)) r (a + 2) (v.extractLsb' 0 16)

/-- One bus read; the value is handed back zero-extended (20_memory.md rule R91; assumption log 11). -/
def busRead (s : State) (r : Region) (a : Nat) (w : Width) : State :=
  match w with
  | .byte => { (memRead8 s r a).1 with result := .data ((memRead8 s r a).2.setWidth 32) }
  | .word => { (memRead16 s r a).1 with result := .data ((memRead16 s r a).2.setWidth 32) }
  | .long => { (memRead32 s r a).1 with result := .data (memRead32 s r a).2 }

/-- One bus write; a narrow one takes the low bits of the value (20_memory.md rules R87, R91). -/
def busWrite (s : State) (r : Region) (a : Nat) (w : Width) (v : Long) : State :=
  match w with
  | .byte => memWrite8 s r a (v.extractLsb' 0 8)
  | .word => memWrite16 s r a (v.extractLsb' 0 16)
  | .long => memWrite32 s r a v

/-! ### The debug dump (20_memory.md rule R99; assumption log 15) -/

/-- The bytes of a memory in offset order. -/
def Arena.dumpMemory (m : Arena) (id : MemId) : List Byte := (List.range id.size).map (m.read8 id)

/-- The bytes of a register region of `words` words in offset order; an offset without a register gives zeros. -/
def State.dumpRegisters (s : State) (r : Region) (words : Nat) : List Byte :=
  (List.range words).flatMap fun k =>
    let w := (s.regWord r (2 * k)).getD 0
    [w.extractLsb' 8 8, w.extractLsb' 0 8]

/-- The dump of a region: its bytes; the framebuffers by index, not by role. -/
def State.dumpBytes (s : State) : Region → List Byte
  | .vram1 => s.mem.dumpMemory .vram1
  | .fb => s.mem.dumpMemory .fb0 ++ s.mem.dumpMemory .fb1
  | .vram2 => s.mem.dumpMemory .vram2
  | .cram => s.mem.dumpMemory .cram
  | .reg1 => s.dumpRegisters .reg1 (Config.reg1Bytes / 2)
  | .reg2 => s.dumpRegisters .reg2 (Config.reg2Bytes / 2)

/-- A dump changes no state beyond what it hands back. -/
def dump (s : State) (r : Region) : State := { s with result := .bytes (s.dumpBytes r) }

end Sys2Proof.Machine
end

