-- ==== Sys2Proof/Syntax.lean ====
section
/-! DEFINITION. The instructions: one constructor for each row of spec/opcode_table.json. A control word holds
an operation (the rows END, SKIP and the opcodes) and, unless its end bit is set, a jump mode (the rows .NEXT,
.ASSIGN, .CALL, .RET); a command step runs the operation and then the jump mode (42_command_processor.md rule
R222), so each of the two is an instruction and a command is the pair (assumption log 6). -/

namespace Sys2Proof

/-- A vertex operand: the low 13 bits of its two words (30_encoding.md rule R121). -/
structure Vertex where
  x : BitVec 13
  y : BitVec 13
deriving DecidableEq, Repr, Inhabited

/-- A clip corner operand, unsigned (30_encoding.md rule R122). -/
structure ClipCorner where
  x : BitVec 10
  y : BitVec 9
deriving DecidableEq, Repr, Inhabited

/-- The operands every draw command reads: PMOD, COLR and GRDA (30_encoding.md rules R117, R118, R123). -/
structure DrawOps where
  pmod : Word
  colr : Word
  grda : Word
deriving DecidableEq, Repr, Inhabited

/-- The operands of a textured draw command: HFLIP and VFLIP of CTRL, SRCA, and SIZE split into texels per row
and rows (30_encoding.md rules R112, R119, R120). -/
structure TexOps where
  hflip : Bool
  vflip : Bool
  srca : Word
  width : BitVec 8
  height : BitVec 8
deriving DecidableEq, Repr, Inhabited

/-- The instructions (30_encoding.md rules R113, R114; spec/opcode_table.json, in the table's order). -/
inductive Instr where
  | endList
  | skip
  | nspr (d : DrawOps) (t : TexOps) (va : Vertex)
  | sspr (d : DrawOps) (t : TexOps) (zp : BitVec 4) (va vb vc : Vertex)
  | dspr (d : DrawOps) (t : TexOps) (va vb vc vd : Vertex)
  | poly (d : DrawOps) (va vb vc vd : Vertex)
  | plin (d : DrawOps) (va vb vc vd : Vertex)
  | line (d : DrawOps) (va vb : Vertex)
  | uclip (upperLeft lowerRight : ClipCorner)
  | sclip (lowerRight : ClipCorner)
  | lcoord (va : Vertex)
  | unrec3
  | unrec7
  | unrecB
  | unrecC
  | unrecD
  | unrecE
  | unrecF
  | jumpNext
  | jumpAssign (link : Word)
  | jumpAssignZero
  | jumpCall (link : Word)
  | jumpReturn
deriving DecidableEq, Repr, Inhabited

/-- A decoded command: the operation its control word selects, and the jump mode that follows it (none after
the end bit, 42_command_processor.md rules R222, R224). -/
structure Command where
  op : Instr
  jump : Option Instr
deriving DecidableEq, Repr, Inhabited

end Sys2Proof
end

