-- ==== Sys2Proof/WellFormed.lean ====
section
/-! DEFINITION. Which terms of the syntax are commands: the checks the type does not make. -/

namespace Sys2Proof

/-- The jump-mode rows of the opcode table (30_encoding.md rule R114). -/
def Instr.isJump : Instr → Bool
  | .jumpNext => true
  | .jumpAssign _ => true
  | .jumpAssignZero => true
  | .jumpCall _ => true
  | .jumpReturn => true
  | .endList => false
  | .skip => false
  | .nspr .. => false
  | .sspr .. => false
  | .dspr .. => false
  | .poly .. => false
  | .plin .. => false
  | .line .. => false
  | .uclip .. => false
  | .sclip .. => false
  | .lcoord .. => false
  | .unrec3 => false
  | .unrec7 => false
  | .unrecB => false
  | .unrecC => false
  | .unrecD => false
  | .unrecE => false
  | .unrecF => false

/-- An instruction is well formed unless it is an Assign whose LINK is zero: that encoding is the row of the
loop guard (42_command_processor.md rules R227, R229). -/
def Instr.wellFormed : Instr → Bool
  | .jumpAssign link => link != 0#16
  | _ => true

/-- A command is well formed when its operation is no jump mode, its jump mode is one and is well formed, and
it has a jump mode exactly when its operation is not the end of the list (42_command_processor.md rule R222). -/
def Command.wellFormed (c : Command) : Bool :=
  !c.op.isJump && c.op.wellFormed &&
    match c.jump with
    | none => c.op == .endList
    | some j => j.isJump && j.wellFormed && c.op != .endList

end Sys2Proof
end

