-- ==== Sys2Proof/Decode.lean ====
section
/-! DEFINITION. The command table in memory, the decoder, total on any bytes, and the encoder
(30_encoding.md rules R110 to R123; spec/opcode_table.json). -/

namespace Sys2Proof

/-- The sixteen words of a command table, in the order of their offsets (30_encoding.md rule R111). -/
structure CmdTable where
  ctrl : Word
  link : Word
  pmod : Word
  colr : Word
  srca : Word
  size : Word
  xa : Word
  ya : Word
  xb : Word
  yb : Word
  xc : Word
  yc : Word
  xd : Word
  yd : Word
  grda : Word
  unused : Word
deriving DecidableEq, Repr, Inhabited

/-! ### Fields of the words -/

/-- CTRL[15], the end bit (30_encoding.md rule R112). -/
def ctrlEnd (ctrl : Word) : Bool := ctrl.getLsbD 15

/-- CTRL[14], the skip bit (30_encoding.md rule R112). -/
def ctrlSkip (ctrl : Word) : Bool := ctrl.getLsbD 14

/-- CTRL[13:12], the jump mode (30_encoding.md rules R112, R114). -/
def ctrlJump (ctrl : Word) : BitVec 2 := ctrl.extractLsb' 12 2

/-- CTRL[11:8], the zoom point (30_encoding.md rule R112). -/
def ctrlZoom (ctrl : Word) : BitVec 4 := ctrl.extractLsb' 8 4

/-- CTRL[5], VFLIP (30_encoding.md rule R112). -/
def ctrlVflip (ctrl : Word) : Bool := ctrl.getLsbD 5

/-- CTRL[4], HFLIP (30_encoding.md rule R112). -/
def ctrlHflip (ctrl : Word) : Bool := ctrl.getLsbD 4

/-- CTRL[3:0], the opcode (30_encoding.md rules R112, R113). -/
def ctrlOpcode (ctrl : Word) : BitVec 4 := ctrl.extractLsb' 0 4

/-- The operands of a vertex: bits 15:13 of its words are ignored (30_encoding.md rule R121). -/
def vertexOf (x y : Word) : Vertex := { x := x.extractLsb' 0 13, y := y.extractLsb' 0 13 }

/-- The operands of a clip corner (30_encoding.md rule R122). -/
def clipCornerOf (x y : Word) : ClipCorner := { x := x.extractLsb' 0 10, y := y.extractLsb' 0 9 }

/-- The words every draw command reads (30_encoding.md rule R111). -/
def CmdTable.drawOps (t : CmdTable) : DrawOps := { pmod := t.pmod, colr := t.colr, grda := t.grda }

/-- The operands of a textured draw command: `W = SIZE[15:8]`, `H = SIZE[7:0]` (30_encoding.md rules R112, R119,
R120). -/
def CmdTable.texOps (t : CmdTable) : TexOps :=
  { hflip := ctrlHflip t.ctrl
    vflip := ctrlVflip t.ctrl
    srca := t.srca
    width := t.size.extractLsb' 8 8
    height := t.size.extractLsb' 0 8 }

/-- Vertex A. -/
def CmdTable.vertexA (t : CmdTable) : Vertex := vertexOf t.xa t.ya

/-- Vertex B. -/
def CmdTable.vertexB (t : CmdTable) : Vertex := vertexOf t.xb t.yb

/-- Vertex C. -/
def CmdTable.vertexC (t : CmdTable) : Vertex := vertexOf t.xc t.yc

/-- Vertex D. -/
def CmdTable.vertexD (t : CmdTable) : Vertex := vertexOf t.xd t.yd

/-! ### The decoder -/

/-- The operation of an opcode (30_encoding.md rule R113, 42_command_processor.md rule R231). -/
def decodeOpcode (t : CmdTable) : Instr :=
  match (ctrlOpcode t.ctrl).toNat with
  | 0x0 => .nspr t.drawOps t.texOps t.vertexA
  | 0x1 => .sspr t.drawOps t.texOps (ctrlZoom t.ctrl) t.vertexA t.vertexB t.vertexC
  | 0x2 => .dspr t.drawOps t.texOps t.vertexA t.vertexB t.vertexC t.vertexD
  | 0x3 => .unrec3
  | 0x4 => .poly t.drawOps t.vertexA t.vertexB t.vertexC t.vertexD
  | 0x5 => .plin t.drawOps t.vertexA t.vertexB t.vertexC t.vertexD
  | 0x6 => .line t.drawOps t.vertexA t.vertexB
  | 0x7 => .unrec7
  | 0x8 => .uclip (clipCornerOf t.xa t.ya) (clipCornerOf t.xc t.yc)
  | 0x9 => .sclip (clipCornerOf t.xc t.yc)
  | 0xA => .lcoord t.vertexA
  | 0xB => .unrecB
  | 0xC => .unrecC
  | 0xD => .unrecD
  | 0xE => .unrecE
  | _ => .unrecF

/-- The operation of a control word: the end bit first, then the skip bit, then the opcode (42_command_processor.md
rule R222). -/
def decodeOp (t : CmdTable) : Instr :=
  if ctrlEnd t.ctrl then .endList
  else if ctrlSkip t.ctrl then .skip
  else decodeOpcode t

/-- The jump mode of a control word without the end bit (30_encoding.md rule R114); an Assign whose LINK is zero
is the loop guard's row (42_command_processor.md rules R227, R229). -/
def decodeJumpMode (t : CmdTable) : Instr :=
  match (ctrlJump t.ctrl).toNat with
  | 0 => .jumpNext
  | 1 => if t.link = 0#16 then .jumpAssignZero else .jumpAssign t.link
  | 2 => .jumpCall t.link
  | _ => .jumpReturn

/-- The command of a table of sixteen words. Every table has one: "every 16-bit value of CTRL, with any content of
the other words, is given a behaviour" (42_command_processor.md rule R259). -/
def decode (t : CmdTable) : Command :=
  { op := decodeOp t
    jump := if ctrlEnd t.ctrl then none else some (decodeJumpMode t) }

/-- Why bytes are no command. -/
inductive DecodeError where
  /-- There are fewer than the 0x20 bytes of a command table (30_encoding.md rule R110). -/
  | truncated
deriving DecidableEq, Repr

/-- A big-endian word (20_memory.md rule R83). -/
def wordOfBytes (hi lo : Byte) : Word := hi ++ lo

/-- The command table at the head of a list of bytes, and the bytes after it. -/
def tableOfBytes : List Byte → Except DecodeError (CmdTable × List Byte)
  | c0 :: c1 :: l0 :: l1 :: p0 :: p1 :: k0 :: k1 :: s0 :: s1 :: z0 :: z1 ::
    ax0 :: ax1 :: ay0 :: ay1 :: bx0 :: bx1 :: yb0 :: yb1 :: cx0 :: cx1 :: cy0 :: cy1 ::
    dx0 :: dx1 :: dy0 :: dy1 :: g0 :: g1 :: u0 :: u1 :: rest =>
    .ok ({ ctrl := wordOfBytes c0 c1, link := wordOfBytes l0 l1
           pmod := wordOfBytes p0 p1, colr := wordOfBytes k0 k1
           srca := wordOfBytes s0 s1, size := wordOfBytes z0 z1
           xa := wordOfBytes ax0 ax1, ya := wordOfBytes ay0 ay1
           xb := wordOfBytes bx0 bx1, yb := wordOfBytes yb0 yb1
           xc := wordOfBytes cx0 cx1, yc := wordOfBytes cy0 cy1
           xd := wordOfBytes dx0 dx1, yd := wordOfBytes dy0 dy1
           grda := wordOfBytes g0 g1, unused := wordOfBytes u0 u1 }, rest)
  | _ => .error .truncated

/-- The decoder on bytes: a command and the bytes after it, or the reason there is none. -/
def decodeBytes (bytes : List Byte) : Except DecodeError (Command × List Byte) :=
  match tableOfBytes bytes with
  | .ok (t, rest) => .ok (decode t, rest)
  | .error e => .error e

/-! ### The encoder -/

/-- A control word from its fields; the reserved bits 7:6 are 0 (30_encoding.md rule R112). -/
def ctrlWord (endBit skipBit : Bool) (jump : BitVec 2) (zoom : BitVec 4) (vflip hflip : Bool)
    (opcode : BitVec 4) : Word :=
  BitVec.ofBool endBit ++ BitVec.ofBool skipBit ++ jump ++ zoom ++ 0#2 ++ BitVec.ofBool vflip ++
    BitVec.ofBool hflip ++ opcode

/-- The word of a vertex coordinate, its ignored bits 0 (30_encoding.md rule R121). -/
def vertexWord (v : BitVec 13) : Word := 0#3 ++ v

/-- The word of a clip column (30_encoding.md rule R122). -/
def clipXWord (v : BitVec 10) : Word := 0#6 ++ v

/-- The word of a clip line (30_encoding.md rule R122). -/
def clipYWord (v : BitVec 9) : Word := 0#7 ++ v

/-- The table with every word 0. -/
def CmdTable.zero : CmdTable :=
  { ctrl := 0, link := 0, pmod := 0, colr := 0, srca := 0, size := 0, xa := 0, ya := 0, xb := 0, yb := 0,
    xc := 0, yc := 0, xd := 0, yd := 0, grda := 0, unused := 0 }

/-- The jump-mode field of a jump mode (30_encoding.md rule R114); 0 for anything else. -/
def jumpField : Instr → BitVec 2
  | .jumpAssign _ => 1
  | .jumpAssignZero => 1
  | .jumpCall _ => 2
  | .jumpReturn => 3
  | _ => 0

/-- The LINK word of a jump mode (30_encoding.md rule R116); 0 where none is read. -/
def linkField : Instr → Word
  | .jumpAssign link => link
  | .jumpCall link => link
  | _ => 0

/-- The operation's words with a given jump field and LINK word; words the operation does not read are 0. A
jump-mode row alone has the operation of its other bits all 0, as its match word has in the table. -/
def encodeOp (op : Instr) (jp : BitVec 2) (link : Word) : CmdTable :=
  let blank : CmdTable := { CmdTable.zero with link := link }
  let draw (d : DrawOps) (t : CmdTable) : CmdTable := { t with pmod := d.pmod, colr := d.colr, grda := d.grda }
  let tex (x : TexOps) (t : CmdTable) : CmdTable := { t with srca := x.srca, size := x.width ++ x.height }
  let atA (v : Vertex) (t : CmdTable) : CmdTable := { t with xa := vertexWord v.x, ya := vertexWord v.y }
  let atB (v : Vertex) (t : CmdTable) : CmdTable := { t with xb := vertexWord v.x, yb := vertexWord v.y }
  let atC (v : Vertex) (t : CmdTable) : CmdTable := { t with xc := vertexWord v.x, yc := vertexWord v.y }
  let atD (v : Vertex) (t : CmdTable) : CmdTable := { t with xd := vertexWord v.x, yd := vertexWord v.y }
  let ctl (w : Word) (t : CmdTable) : CmdTable := { t with ctrl := w }
  let plain (opcode : BitVec 4) : Word := ctrlWord false false jp 0 false false opcode
  match op with
  | .endList => ctl (ctrlWord true false 0 0 false false 0) blank
  | .skip => ctl (ctrlWord false true jp 0 false false 0) blank
  | .nspr d x a => ctl (ctrlWord false false jp 0 x.vflip x.hflip 0x0) (draw d (tex x (atA a blank)))
  | .sspr d x zp a b c =>
    ctl (ctrlWord false false jp zp x.vflip x.hflip 0x1) (draw d (tex x (atA a (atB b (atC c blank)))))
  | .dspr d x a b c e =>
    ctl (ctrlWord false false jp 0 x.vflip x.hflip 0x2) (draw d (tex x (atA a (atB b (atC c (atD e blank))))))
  | .poly d a b c e => ctl (plain 0x4) (draw d (atA a (atB b (atC c (atD e blank)))))
  | .plin d a b c e => ctl (plain 0x5) (draw d (atA a (atB b (atC c (atD e blank)))))
  | .line d a b => ctl (plain 0x6) (draw d (atA a (atB b blank)))
  | .uclip p q =>
    ctl (plain 0x8) { blank with xa := clipXWord p.x, ya := clipYWord p.y, xc := clipXWord q.x, yc := clipYWord q.y }
  | .sclip q => ctl (plain 0x9) { blank with xc := clipXWord q.x, yc := clipYWord q.y }
  | .lcoord a => ctl (plain 0xA) (atA a blank)
  | .unrec3 => ctl (plain 0x3) blank
  | .unrec7 => ctl (plain 0x7) blank
  | .unrecB => ctl (plain 0xB) blank
  | .unrecC => ctl (plain 0xC) blank
  | .unrecD => ctl (plain 0xD) blank
  | .unrecE => ctl (plain 0xE) blank
  | .unrecF => ctl (plain 0xF) blank
  | .jumpNext => ctl (plain 0x0) blank
  | .jumpAssign _ => ctl (plain 0x0) blank
  | .jumpAssignZero => ctl (plain 0x0) blank
  | .jumpCall _ => ctl (plain 0x0) blank
  | .jumpReturn => ctl (plain 0x0) blank

/-- The sixteen words of a command. -/
def encode (c : Command) : CmdTable :=
  match c.jump with
  | none => encodeOp c.op 0 0
  | some j => encodeOp c.op (jumpField j) (linkField j)

/-- The words of one instruction by itself: an operation followed by the default jump mode Next, or a jump mode in
a control word that holds nothing else. -/
def encodeInstr (i : Instr) : CmdTable := encodeOp i (jumpField i) (linkField i)

/-- The bytes of a word, the high byte first (20_memory.md rule R83). -/
def bytesOfWord (w : Word) : List Byte := [w.extractLsb' 8 8, w.extractLsb' 0 8]

/-- The words of a table in the order of their offsets. -/
def CmdTable.words (t : CmdTable) : List Word :=
  [t.ctrl, t.link, t.pmod, t.colr, t.srca, t.size, t.xa, t.ya, t.xb, t.yb, t.xc, t.yc, t.xd, t.yd, t.grda, t.unused]

/-- The 0x20 bytes of a table as the memory holds them. -/
def CmdTable.bytes (t : CmdTable) : List Byte := t.words.flatMap bytesOfWord

/-! ### The rows of the opcode table -/

/-- The mask of an instruction's row (spec/opcode_table.json). -/
def rowMask : Instr → Word
  | .endList => 0x8000
  | .skip => 0xC000
  | .jumpNext => 0xB000
  | .jumpAssign _ => 0xB000
  | .jumpAssignZero => 0xB000
  | .jumpCall _ => 0xB000
  | .jumpReturn => 0xB000
  | _ => 0xC00F

/-- The match value of an instruction's row (spec/opcode_table.json). -/
def rowMatch : Instr → Word
  | .endList => 0x8000
  | .skip => 0x4000
  | .nspr .. => 0x0000
  | .sspr .. => 0x0001
  | .dspr .. => 0x0002
  | .poly .. => 0x0004
  | .plin .. => 0x0005
  | .line .. => 0x0006
  | .uclip .. => 0x0008
  | .sclip .. => 0x0009
  | .lcoord .. => 0x000A
  | .unrec3 => 0x0003
  | .unrec7 => 0x0007
  | .unrecB => 0x000B
  | .unrecC => 0x000C
  | .unrecD => 0x000D
  | .unrecE => 0x000E
  | .unrecF => 0x000F
  | .jumpNext => 0x0000
  | .jumpAssign _ => 0x1000
  | .jumpAssignZero => 0x1000
  | .jumpCall _ => 0x2000
  | .jumpReturn => 0x3000

/-- The place of an instruction's row in spec/opcode_table.json, from 0. -/
def Instr.row : Instr → Nat
  | .endList => 0
  | .skip => 1
  | .nspr .. => 2
  | .sspr .. => 3
  | .dspr .. => 4
  | .poly .. => 5
  | .plin .. => 6
  | .line .. => 7
  | .uclip .. => 8
  | .sclip .. => 9
  | .lcoord .. => 10
  | .unrec3 => 11
  | .unrec7 => 12
  | .unrecB => 13
  | .unrecC => 14
  | .unrecD => 15
  | .unrecE => 16
  | .unrecF => 17
  | .jumpNext => 18
  | .jumpAssign _ => 19
  | .jumpAssignZero => 20
  | .jumpCall _ => 21
  | .jumpReturn => 22

/-! ### The host's numbering of an instruction's bits -/

/-- Word `k` of an instruction whose low `nbits` bits are `w`, numbered as spec/opcode_table.json numbers them. -/
def tableWordAt (nbits w k : Nat) : Word := BitVec.ofNat 16 ((w % 2 ^ nbits) >>> (16 * k))

/-- The 0x20 bytes of that instruction. -/
def tableWordBytes (nbits w : Nat) : List Byte :=
  (List.range 16).flatMap fun k => bytesOfWord (tableWordAt nbits w k)

/-- The instruction of a table word. A control word that holds a jump mode other than Next and nothing else is the
match word of that jump mode's row, and the answer is the jump mode; for every other word the answer is the
operation of the command it decodes to (assumption log 6). -/
def decodeTableWord (nbits w : Nat) : Option Instr :=
  match decodeBytes (tableWordBytes nbits w) with
  | .ok (c, _) =>
    let ctrl := tableWordAt nbits w 0
    if ctrl &&& 0xCFFF = 0 ∧ ctrl ≠ 0 then c.jump else some c.op
  | .error _ => none

end Sys2Proof
end

