-- ==== Sys2Proof/Machine/Operands.lean ====
section
/-! DEFINITION. Every operand form of a command: the fields of PMOD, drawing positions, textures and texels, the
Gouraud table, the clip tests and the bounding box (30_encoding.md rules R116 to R124; 42_command_processor.md
rules R232 to R234, R237). -/

namespace Sys2Proof.Machine

/-! ### PMOD (30_encoding.md rule R117) -/

/-- PMOD[10], CLIP. -/
def pmodClip (pmod : Word) : Bool := pmod.getLsbD 10

/-- PMOD[9], CMOD. -/
def pmodOutside (pmod : Word) : Bool := pmod.getLsbD 9

/-- PMOD[6], SPD. -/
def pmodSpd (pmod : Word) : Bool := pmod.getLsbD 6

/-- PMOD[5:3], CM. -/
def pmodCM (pmod : Word) : Nat := (pmod.extractLsb' 3 3).toNat

/-- PMOD[2], GOUR. -/
def pmodGour (pmod : Word) : Bool := pmod.getLsbD 2

/-- A bit of PMOD the spec does not admit is set: MON, HSS, MESH, or CC not 0 (42_command_processor.md rule R231). -/
def pmodUnadmitted (pmod : Word) : Bool :=
  pmod.getLsbD 15 || pmod.getLsbD 12 || pmod.getLsbD 8 || pmod.extractLsb' 0 2 != 0#2

/-! ### Addresses and positions -/

/-- `(word << 3) mod VRAM1_BYTES`: a jump target, a texture base, a Gouraud table (30_encoding.md rules R116, R119,
R123). The shifted word has 19 bits, so the reduction changes nothing. -/
def addressOf (w : Word) : BitVec 19 := w ++ 0#3

/-- The raw vertex `V(c, n)` (42_command_processor.md rule R232). -/
def rawVertex (v : Vertex) : Coord := { x := v.x.toInt, y := v.y.toInt }

/-- The local coordinate offset (10_state.md rule R30). -/
def State.localOffset (s : State) : Coord := { x := s.ctx.localX.toInt, y := s.ctx.localY.toInt }

/-- Add two coordinates. -/
def addCoord (p q : Coord) : Coord := { x := p.x + q.x, y := p.y + q.y }

/-- The drawing position `P(c, n) = V(c, n) + (localX, localY)` (42_command_processor.md rule R232). -/
def State.position (s : State) (v : Vertex) : Coord := addCoord (rawVertex v) s.localOffset

/-! ### Textures -/

/-- A texture as a draw command names it: base `T`, texels per row `W`, rows `H`, colour mode and colour bank
(30_encoding.md rules R117 to R120). -/
structure Texture where
  base : Nat
  width : Nat
  height : Nat
  mode : Nat
  bank : Word
deriving DecidableEq, Repr

/-- The texture of a command's operands. -/
def textureOf (d : DrawOps) (t : TexOps) : Texture :=
  { base := (addressOf t.srca).toNat
    width := t.width.toNat
    height := t.height.toNat
    mode := pmodCM d.pmod
    bank := d.colr }

/-- A texel: its raw value and the pixel value it stands for (30_encoding.md rule R124). -/
structure Texel where
  raw : Word
  value : Word
deriving DecidableEq, Repr

/-- The raw value of a 4-bit texel: the high nibble of a byte is the even texel (30_encoding.md rule R124). -/
def rawNibble (m : Arena) (base t : Nat) : Word :=
  let b := m.read8 .vram1 (base + t / 2)
  if t % 2 = 0 then (b.extractLsb' 4 4).setWidth 16 else (b.extractLsb' 0 4).setWidth 16

/-- The raw value of an 8-bit texel. -/
def rawByte (m : Arena) (base t : Nat) : Word := (m.read8 .vram1 (base + t)).setWidth 16

/-- `Texel(T, W, CM, COLR, u, v)` (30_encoding.md rule R124). Colour modes 6 and 7 draw nothing and fetch no texel
(42_command_processor.md rule R236). -/
def fetchTexel (m : Arena) (x : Texture) (u v : Int) : Texel :=
  let t := (v * x.width + u).toNat
  match x.mode with
  | 0 =>
    let raw := rawNibble m x.base t
    { raw := raw, value := (x.bank &&& 0xFFF0) ||| raw }
  | 1 =>
    let raw := rawNibble m x.base t
    { raw := raw, value := m.read16 .vram1 ((addressOf x.bank).toNat + 2 * raw.toNat) }
  | 2 =>
    let raw := rawByte m x.base t
    { raw := raw, value := (x.bank &&& 0xFFC0) ||| (raw &&& 0x003F) }
  | 3 =>
    let raw := rawByte m x.base t
    { raw := raw, value := (x.bank &&& 0xFF80) ||| (raw &&& 0x007F) }
  | 4 =>
    let raw := rawByte m x.base t
    { raw := raw, value := (x.bank &&& 0xFF00) ||| raw }
  | _ =>
    let raw := m.read16 .vram1 (x.base + 2 * t)
    { raw := raw, value := raw }

/-- A texel is transparent when SPD is 0 and its raw value is the transparent code 0 (30_encoding.md rule R124). -/
def Texel.transparent (x : Texel) (pmod : Word) : Bool := !pmodSpd pmod && x.raw == 0#16

/-! ### Gouraud shading -/

/-- The Gouraud table of a command (30_encoding.md rule R123). -/
def gouraudTable (m : Arena) (d : DrawOps) : GouraudTable :=
  let g := (addressOf d.grda).toNat
  { a := m.read16 .vram1 g, b := m.read16 .vram1 (g + 2), c := m.read16 .vram1 (g + 4), d := m.read16 .vram1 (g + 6) }

/-- The value a pixel is plotted with: `v`, or `GOURAUD(g, row, N, k, dmaj, v)` when GOUR is 1
(42_command_processor.md rule R237; assumption log 4). -/
def shade (m : Arena) (d : DrawOps) (row n k dmaj : Nat) (v : Word) : Word :=
  if pmodGour d.pmod then Config.gouraud (gouraudTable m d) row n k dmaj v else v

/-! ### Clipping -/

/-- The system clip admits a position (42_command_processor.md rule R233). -/
def RenderContext.inSystemClip (c : RenderContext) (x y : Int) : Bool :=
  decide (0 ≤ x) && decide (x ≤ c.sysClipH.toNat) && decide (0 ≤ y) && decide (y ≤ c.sysClipV.toNat)

/-- A position lies in the user clip rectangle (42_command_processor.md rule R233). -/
def RenderContext.inUserClip (c : RenderContext) (x y : Int) : Bool :=
  decide ((c.userClipX0.toNat : Int) ≤ x) && decide (x ≤ c.userClipX1.toNat) &&
    decide ((c.userClipY0.toNat : Int) ≤ y) && decide (y ≤ c.userClipY1.toNat)

/-- A position passes the clip tests of `PlotPixel` (42_command_processor.md rule R233). -/
def RenderContext.visible (c : RenderContext) (pmod : Word) (x y : Int) : Bool :=
  c.inSystemClip x y &&
    (!pmodClip pmod || (if pmodOutside pmod then !c.inUserClip x y else c.inUserClip x y))

/-- The bounding box of positions misses the rectangle `[x0, x1]` by `[y0, y1]` on some axis. -/
def boxMisses (ps : List Coord) (x0 y0 x1 y1 : Int) : Bool :=
  ps.all (fun p => decide (p.x < x0)) || ps.all (fun p => decide (x1 < p.x)) ||
    ps.all (fun p => decide (p.y < y0)) || ps.all (fun p => decide (y1 < p.y))

/-- The bounding-box rejection: `maxX < 0` is that every x is below 0, and so on for the other seven comparisons
(42_command_processor.md rule R234). -/
def RenderContext.rejects (c : RenderContext) (pmod : Word) (ps : List Coord) : Bool :=
  boxMisses ps 0 0 c.sysClipH.toNat c.sysClipV.toNat ||
    (pmodClip pmod && !pmodOutside pmod &&
      boxMisses ps c.userClipX0.toNat c.userClipY0.toNat c.userClipX1.toNat c.userClipY1.toNat)

end Sys2Proof.Machine
end

