-- ==== Sys2Proof/Machine/Context.lean ====
section
/-! DEFINITION. The context commands: UCLIP, SCLIP, LCOORD (42_command_processor.md rules R252, R254, R256). -/

namespace Sys2Proof.Machine

/-- The state with another RenderContext. -/
def State.withCtx (s : State) (c : RenderContext) : State := { s with ctx := c }

/-- `UCLIP` (42_command_processor.md rule R252). -/
def execUclip (upperLeft lowerRight : ClipCorner) (s : State) : Host.Outcome State Fault Refusal :=
  guardSprite s fun s =>
    .next (s.withCtx
      { s.ctx with
        userClipX0 := upperLeft.x
        userClipY0 := upperLeft.y
        userClipX1 := lowerRight.x
        userClipY1 := lowerRight.y })

/-- `SCLIP` (42_command_processor.md rule R254). -/
def execSclip (lowerRight : ClipCorner) (s : State) : Host.Outcome State Fault Refusal :=
  guardSprite s fun s => .next (s.withCtx { s.ctx with sysClipH := lowerRight.x, sysClipV := lowerRight.y })

/-- `LCOORD`: the new origin replaces the old one (42_command_processor.md rule R256). -/
def execLcoord (va : Vertex) (s : State) : Host.Outcome State Fault Refusal :=
  guardSprite s fun s => .next (s.withCtx { s.ctx with localX := va.x, localY := va.y })

end Sys2Proof.Machine
end

