-- ==== Sys2Proof/Machine/Control.lean ====
section
/-! DEFINITION. The control-word patterns END and SKIP, the unrecognized opcodes, and the jump modes
(42_command_processor.md rules R224 to R230, R258). -/

namespace Sys2Proof.Machine

/-- `END` (42_command_processor.md rule R224). -/
def execEndList (s : State) : Host.Outcome State Fault Refusal := guardSprite s fun s => .next (endFrame s)

/-- `SKIP`: nothing is executed (42_command_processor.md rule R225). -/
def execSkip (s : State) : Host.Outcome State Fault Refusal := guardSprite s fun s => .next s

/-- `UNREC`: log E2, with a PMOD of 0 since none was read (42_command_processor.md rule R258, 60_exceptions.md rule
R451). -/
def unrecognized (s : State) : Host.Outcome State Fault Refusal := guardSprite s fun s => .next (s.logCommand 0)

/-- `UNREC` with opcode 0x3 (42_command_processor.md rule R258). -/
def execUnrec3 (s : State) : Host.Outcome State Fault Refusal := unrecognized s

/-- `UNREC` with opcode 0x7 (42_command_processor.md rule R258). -/
def execUnrec7 (s : State) : Host.Outcome State Fault Refusal := unrecognized s

/-- `UNREC` with opcode 0xB (42_command_processor.md rule R258). -/
def execUnrecB (s : State) : Host.Outcome State Fault Refusal := unrecognized s

/-- `UNREC` with opcode 0xC (42_command_processor.md rule R258). -/
def execUnrecC (s : State) : Host.Outcome State Fault Refusal := unrecognized s

/-- `UNREC` with opcode 0xD (42_command_processor.md rule R258). -/
def execUnrecD (s : State) : Host.Outcome State Fault Refusal := unrecognized s

/-- `UNREC` with opcode 0xE (42_command_processor.md rule R258). -/
def execUnrecE (s : State) : Host.Outcome State Fault Refusal := unrecognized s

/-- `UNREC` with opcode 0xF (42_command_processor.md rule R258). -/
def execUnrecF (s : State) : Host.Outcome State Fault Refusal := unrecognized s

/-! ### Jump modes

They run after the operation of the same command step, which has already refused a sprite mode that is not
admitted. -/

/-- The address after the command at `c`: `(c + 0x20) mod VRAM1_BYTES` (42_command_processor.md rule R226). -/
def nextCommand (c : BitVec 19) : BitVec 19 := c + 0x20

/-- `Next` (42_command_processor.md rule R226). -/
def execJumpNext (s : State) : Host.Outcome State Fault Refusal :=
  .next (s.withCtx { s.ctx with cmdAddr := nextCommand s.ctx.cmdAddr })

/-- `Assign`: the target, or the loop guard when the target is 0 (42_command_processor.md rule R227). -/
def execJumpAssign (link : Word) (s : State) : Host.Outcome State Fault Refusal :=
  if addressOf link = 0 then .next (loopGuard s) else .next (s.withCtx { s.ctx with cmdAddr := addressOf link })

/-- `Assign` with a LINK of 0: the loop guard (42_command_processor.md rules R227, R229). -/
def execJumpAssignZero (s : State) : Host.Outcome State Fault Refusal := .next (loopGuard s)

/-- `Call` (42_command_processor.md rule R228). -/
def execJumpCall (link : Word) (s : State) : Host.Outcome State Fault Refusal :=
  .next (s.withCtx
    { s.ctx with
      retAddr := if s.ctx.retValid then s.ctx.retAddr else nextCommand s.ctx.cmdAddr
      retValid := true
      cmdAddr := addressOf link })

/-- `Return` (42_command_processor.md rule R230). -/
def execJumpReturn (s : State) : Host.Outcome State Fault Refusal :=
  if s.ctx.retValid then .next (s.withCtx { s.ctx with cmdAddr := s.ctx.retAddr, retValid := false })
  else .next (s.withCtx { s.ctx with cmdAddr := nextCommand s.ctx.cmdAddr })

end Sys2Proof.Machine
end

