-- ==== Sys2Proof/Machine/Raster.lean ====
section
/-! DEFINITION. The RasterizationEngine: `SafeDiv`, the line, textured-line, quad and textured-quad steppers, and the
canonical iteration (40_rasterizer.md rules R161 to R178). A stepper that cannot step has no next stepper
(93_implementation_defined.md U2). Fixed-point values are unbounded integers (00_scope.md rule R10; assumption log
12). -/

namespace Sys2Proof.Machine

/-- `ONE` (00_scope.md rule R11). -/
def fixOne : Int := 0x10000

/-- `HALF` (00_scope.md rule R11). -/
def fixHalf : Int := 0x8000

/-- `v << 16` (00_scope.md rule R11). -/
def toFix (i : Int) : Int := i * 0x10000

/-- `ToFixHalf(i)` (00_scope.md rule R11). -/
def toFixHalf (i : Int) : Int := toFix i + fixHalf

/-- `v >> 16`: the integer part, by floor (00_scope.md rules R10, R11). -/
def fixFloor (v : Int) : Int := v / 0x10000

/-- `SafeDiv(a, b)`: 0 when `b = 0`, else the quotient truncated toward zero (40_rasterizer.md rule R161). -/
def safeDiv (a b : Int) : Int := if b = 0 then 0 else Int.tdiv a b

/-- The span of two points (40_rasterizer.md rules R162, R175). -/
def spanOf (p q : Coord) : Nat := max (q.x - p.x).natAbs (q.y - p.y).natAbs

/-! ### Line stepper -/

/-- The `LineStepper` record (10_state.md rule R22). -/
structure LineStepper where
  dmaj : Nat
  xmajor : Bool
  majinc : Int
  mininc : Int
  majcur : Int
  majend : Int
  mincur : Int
  aa : Bool
  aaMinor : Int
deriving DecidableEq, Repr

/-- `LineStepper.new(c1, c2)` (40_rasterizer.md rule R162). -/
def LineStepper.new (c1 c2 : Coord) : LineStepper :=
  let dx := c2.x - c1.x
  let dy := c2.y - c1.y
  let dmaj := spanOf c1 c2
  let xmajor := decide (dy.natAbs ≤ dx.natAbs)
  let m1 := if xmajor then c1.x else c1.y
  let n1 := if xmajor then c1.y else c1.x
  let dM := if xmajor then dx else dy
  let dN := if xmajor then dy else dx
  let majinc := if 0 ≤ dM then fixOne else -fixOne
  { dmaj := dmaj
    xmajor := xmajor
    majinc := majinc
    mininc := safeDiv (toFix dN) dmaj
    majcur := toFixHalf m1
    majend := toFixHalf m1 + majinc * (dmaj + 1)
    mincur := toFixHalf n1
    aa := false
    aaMinor := n1 }

/-- `CanStep()` (40_rasterizer.md rule R164). -/
def LineStepper.canStep (s : LineStepper) : Bool := s.majcur != s.majend

/-- The point at a major and a minor coordinate. -/
def LineStepper.point (s : LineStepper) (major minor : Int) : Coord :=
  if s.xmajor then { x := major, y := minor } else { x := minor, y := major }

/-- `Coord()` (40_rasterizer.md rule R165). -/
def LineStepper.coord (s : LineStepper) : Coord := s.point (fixFloor s.majcur) (fixFloor s.mincur)

/-- `AACoord()` (40_rasterizer.md rule R167). -/
def LineStepper.aaCoord (s : LineStepper) : Coord := s.point (fixFloor s.majcur) s.aaMinor

/-- The arithmetic of `Step()` (40_rasterizer.md rule R166). -/
def LineStepper.advance (s : LineStepper) : LineStepper :=
  { s with
    majcur := s.majcur + s.majinc
    mincur := s.mincur + s.mininc
    aa := fixFloor (s.mincur + s.mininc) != fixFloor s.mincur
    aaMinor := fixFloor s.mincur }

/-- `Step()`: none when `CanStep()` is false (40_rasterizer.md rules R164, R166; 93_implementation_defined.md U2). -/
def LineStepper.step (s : LineStepper) : Option LineStepper := if s.canStep then some s.advance else none

/-- The canonical iteration (40_rasterizer.md rule R168): the steppers at which a point is visited, in order, at most
`fuel` of them. -/
def LineStepper.visits : Nat → LineStepper → List LineStepper
  | 0, _ => []
  | fuel + 1, s =>
    match s.step with
    | some next => s :: LineStepper.visits fuel next
    | none => []

/-- The steppers of the line from `c1` to `c2`, one for each point (40_rasterizer.md rule R168). -/
def lineVisits (c1 c2 : Coord) : List LineStepper := LineStepper.visits (spanOf c1 c2 + 1) (LineStepper.new c1 c2)

/-- The points of the line (40_rasterizer.md rule R168). -/
def linePoints (c1 c2 : Coord) : List Coord := (lineVisits c1 c2).map LineStepper.coord

/-! ### Textured line stepper -/

/-- The `TexLineStepper` record (10_state.md rule R23). -/
structure TexLineStepper where
  line : LineStepper
  size : Nat
  flip : Bool
  ucur : Int
  uinc : Int
  uchanged : Bool
deriving DecidableEq, Repr

/-- `TexLineStepper.new(c1, c2, size, flip)` (40_rasterizer.md rule R172). -/
def TexLineStepper.new (c1 c2 : Coord) (size : Nat) (flip : Bool) : TexLineStepper :=
  let l := LineStepper.new c1 c2
  { line := if size = 0 then { l with majend := l.majcur } else l
    size := size
    flip := flip
    ucur := 0
    uinc := safeDiv (toFix size) (l.dmaj + 1)
    uchanged := true }

/-- `U()` (40_rasterizer.md rule R173). -/
def TexLineStepper.u (s : TexLineStepper) : Int :=
  if s.flip then s.size - 1 - fixFloor s.ucur else fixFloor s.ucur

/-- The arithmetic of `TexLineStepper.Step()` (40_rasterizer.md rule R173). -/
def TexLineStepper.advance (s : TexLineStepper) : TexLineStepper :=
  { s with
    line := s.line.advance
    ucur := s.ucur + s.uinc
    uchanged := fixFloor (s.ucur + s.uinc) != fixFloor s.ucur }

/-- `TexLineStepper.Step()`: none when `CanStep()` is false (40_rasterizer.md rules R164, R173). -/
def TexLineStepper.step (s : TexLineStepper) : Option TexLineStepper :=
  if s.line.canStep then some s.advance else none

/-- The canonical iteration of a textured line (40_rasterizer.md rule R168, 42_command_processor.md rule R238). -/
def TexLineStepper.visits : Nat → TexLineStepper → List TexLineStepper
  | 0, _ => []
  | fuel + 1, s =>
    match s.step with
    | some next => s :: TexLineStepper.visits fuel next
    | none => []

/-- The steppers of a textured line, one for each point. -/
def texLineVisits (c1 c2 : Coord) (size : Nat) (flip : Bool) : List TexLineStepper :=
  TexLineStepper.visits (spanOf c1 c2 + 1) (TexLineStepper.new c1 c2 size flip)

/-! ### Quad stepper -/

/-- One edge of a quad (10_state.md rule R24). -/
structure EdgeStepper where
  xcur : Int
  ycur : Int
  xinc : Int
  yinc : Int
deriving DecidableEq, Repr

/-- The edge from `p` to `q` stepped `n` times (40_rasterizer.md rule R175). -/
def EdgeStepper.new (p q : Coord) (n : Nat) : EdgeStepper :=
  { xcur := toFixHalf p.x
    ycur := toFixHalf p.y
    xinc := safeDiv (toFix (q.x - p.x)) n
    yinc := safeDiv (toFix (q.y - p.y)) n }

/-- The point of an edge (40_rasterizer.md rule R176). -/
def EdgeStepper.coord (e : EdgeStepper) : Coord := { x := fixFloor e.xcur, y := fixFloor e.ycur }

/-- One step of an edge (40_rasterizer.md rule R176). -/
def EdgeStepper.advance (e : EdgeStepper) : EdgeStepper :=
  { e with xcur := e.xcur + e.xinc, ycur := e.ycur + e.yinc }

/-- The `QuadStepper` record (10_state.md rule R24); `stop` is the record's `end`. -/
structure QuadStepper where
  left : EdgeStepper
  right : EdgeStepper
  n : Nat
  cur : Nat
  stop : Nat
  swapped : Bool
deriving DecidableEq, Repr

/-- `QuadStepper.new(A, B, C, D)` (40_rasterizer.md rule R175). -/
def QuadStepper.new (a b c d : Coord) : QuadStepper :=
  let n := max (spanOf a d) (spanOf b c)
  { left := EdgeStepper.new a d n
    right := EdgeStepper.new b c n
    n := n
    cur := 0
    stop := n + 1
    swapped := decide (spanOf a d < spanOf b c) }

/-- `CanStep()` (40_rasterizer.md rule R176). -/
def QuadStepper.canStep (s : QuadStepper) : Bool := s.cur != s.stop

/-- The arithmetic of `Step()` (40_rasterizer.md rule R176). -/
def QuadStepper.advance (s : QuadStepper) : QuadStepper :=
  { s with left := s.left.advance, right := s.right.advance, cur := s.cur + 1 }

/-- `Step()`: none when `CanStep()` is false (40_rasterizer.md rule R176). -/
def QuadStepper.step (s : QuadStepper) : Option QuadStepper := if s.canStep then some s.advance else none

/-- The canonical iteration of a quad (40_rasterizer.md rule R176). -/
def QuadStepper.visits : Nat → QuadStepper → List QuadStepper
  | 0, _ => []
  | fuel + 1, s =>
    match s.step with
    | some next => s :: QuadStepper.visits fuel next
    | none => []

/-- The steppers of a quad, one for each row. -/
def quadVisits (a b c d : Coord) : List QuadStepper :=
  QuadStepper.visits (max (spanOf a d) (spanOf b c) + 1) (QuadStepper.new a b c d)

/-- The rows of a quad, each the pair `(LCoord, RCoord)` (40_rasterizer.md rule R176). -/
def quadRows (a b c d : Coord) : List (Coord × Coord) :=
  (quadVisits a b c d).map fun q => (q.left.coord, q.right.coord)

/-! ### Textured quad stepper -/

/-- The `TexQuadStepper` record (10_state.md rule R24). -/
structure TexQuadStepper where
  quad : QuadStepper
  sizeV : Nat
  flipV : Bool
  vcur : Int
  vinc : Int
  vchanged : Bool
deriving DecidableEq, Repr

/-- `TexQuadStepper.new(A, B, C, D, sizeV, flipV)` (40_rasterizer.md rule R178). -/
def TexQuadStepper.new (a b c d : Coord) (sizeV : Nat) (flipV : Bool) : TexQuadStepper :=
  let q := QuadStepper.new a b c d
  { quad := if sizeV = 0 then { q with stop := 0 } else q
    sizeV := sizeV
    flipV := flipV
    vcur := 0
    vinc := safeDiv (toFix sizeV) (q.n + 1)
    vchanged := true }

/-- `V()` (40_rasterizer.md rule R178). -/
def TexQuadStepper.v (s : TexQuadStepper) : Int :=
  if s.flipV then s.sizeV - 1 - fixFloor s.vcur else fixFloor s.vcur

/-- The arithmetic of `TexQuadStepper.Step()` (40_rasterizer.md rule R178). -/
def TexQuadStepper.advance (s : TexQuadStepper) : TexQuadStepper :=
  { s with
    quad := s.quad.advance
    vcur := s.vcur + s.vinc
    vchanged := fixFloor (s.vcur + s.vinc) != fixFloor s.vcur }

/-- `TexQuadStepper.Step()`: none when `CanStep()` is false (40_rasterizer.md rule R178). -/
def TexQuadStepper.step (s : TexQuadStepper) : Option TexQuadStepper :=
  if s.quad.canStep then some s.advance else none

/-- The canonical iteration of a textured quad (42_command_processor.md rule R238). -/
def TexQuadStepper.visits : Nat → TexQuadStepper → List TexQuadStepper
  | 0, _ => []
  | fuel + 1, s =>
    match s.step with
    | some next => s :: TexQuadStepper.visits fuel next
    | none => []

/-- The steppers of a textured quad, one for each row. -/
def texQuadVisits (a b c d : Coord) (sizeV : Nat) (flipV : Bool) : List TexQuadStepper :=
  TexQuadStepper.visits (max (spanOf a d) (spanOf b c) + 1) (TexQuadStepper.new a b c d sizeV flipV)

end Sys2Proof.Machine
end

