-- ==== Sys2Proof/Machine/Draw.lean ====
section
/-! DEFINITION. The operations the draw commands share: the draw prologue, `DrawLine`, `DrawTexRow`, `DrawTexQuad`,
`DrawQuad` as the list of pixels they plot in order, and the plotting itself (42_command_processor.md rules R231,
R233, R235, R236, R238). Drawing never writes VRAM1, so every texel and the Gouraud table are read from the memories
as the command finds them. -/

namespace Sys2Proof.Machine

/-- One call of `PlotPixel`: a position and the value (42_command_processor.md rule R233). -/
structure Plot where
  x : Int
  y : Int
  v : Word
deriving DecidableEq, Repr

/-- The plot of a position. -/
def plotAt (p : Coord) (v : Word) : Plot := { x := p.x, y := p.y, v := v }

/-- The plots of one point of a line: the companion first when `aa`, then the point (42_command_processor.md rules
R235, R238). -/
def pointPlots (s : LineStepper) (v : Word) : List Plot :=
  if s.aa then [plotAt s.aaCoord v, plotAt s.coord v] else [plotAt s.coord v]

/-- `DrawLine(c1, c2, v, pmod)` on row `row` of `n` (42_command_processor.md rules R235, R237). -/
def linePlots (m : Arena) (d : DrawOps) (row n : Nat) (c1 c2 : Coord) : List Plot :=
  (lineVisits c1 c2).zipIdx.flatMap fun e => pointPlots e.1 (shade m d row n e.2 e.1.dmaj d.colr)

/-- `DrawTexRow(l, r, v, …)` from a stepper on: the texel is fetched when `uchanged` and kept otherwise, and a
transparent texel plots nothing (42_command_processor.md rule R238). -/
def texRowPlotsFrom (m : Arena) (d : DrawOps) (x : Texture) (row n : Nat) (v : Int) :
    Option Texel → Nat → List TexLineStepper → List Plot
  | _, _, [] => []
  | kept, k, s :: rest =>
    let tex := if s.uchanged then some (fetchTexel m x s.u v) else kept
    let here :=
      match tex with
      | none => []
      | some t =>
        if t.transparent d.pmod then []
        else pointPlots s.line (shade m d row n k s.line.dmaj t.value)
    here ++ texRowPlotsFrom m d x row n v tex (k + 1) rest

/-- `DrawTexRow(l, r, v, T, W, pmod, colr, hflip)` (42_command_processor.md rule R238). -/
def texRowPlots (m : Arena) (d : DrawOps) (x : Texture) (row n : Nat) (hflip : Bool) (l r : Coord) (v : Int) :
    List Plot :=
  texRowPlotsFrom m d x row n v none 0 (texLineVisits l r x.width hflip)

/-- The four corners of a quad in the order of the command. -/
structure Corners where
  a : Coord
  b : Coord
  c : Coord
  d : Coord
deriving DecidableEq, Repr

/-- The corners as a list. -/
def Corners.list (q : Corners) : List Coord := [q.a, q.b, q.c, q.d]

/-- `DrawTexQuad(A, B, C, D, T, W, H, pmod, colr, hflip, vflip)` (42_command_processor.md rule R238). -/
def texQuadPlots (m : Arena) (d : DrawOps) (x : Texture) (hflip vflip : Bool) (q : Corners) : List Plot :=
  (texQuadVisits q.a q.b q.c q.d x.height vflip).zipIdx.flatMap fun e =>
    texRowPlots m d x e.2 e.1.quad.n hflip e.1.quad.left.coord e.1.quad.right.coord e.1.v

/-- `DrawQuad(A, B, C, D, v, pmod)` (42_command_processor.md rule R238). -/
def quadPlots (m : Arena) (d : DrawOps) (q : Corners) : List Plot :=
  (quadVisits q.a q.b q.c q.d).zipIdx.flatMap fun e => linePlots m d e.2 e.1.n e.1.left.coord e.1.right.coord

/-! ### Plotting -/

/-- The framebuffer writes of plots: the byte offset and the value of each plot that passes the clip tests, in order
(42_command_processor.md rule R233, 41_framebuffer.md rule R201). -/
def State.writesOf (s : State) (pmod : Word) (ps : List Plot) : List (Nat × Word) :=
  (ps.filter fun p => s.ctx.visible pmod p.x p.y).map fun p => (fbOff p.x p.y, p.v)

/-- Write words of one memory in order. -/
def Arena.writeWords (m : Arena) (id : MemId) (ws : List (Nat × Word)) : Arena :=
  ws.foldl (fun acc w => acc.write16 id w.1 w.2) m

/-- Plot pixels in order into the draw buffer (42_command_processor.md rules R233, R261). -/
def State.drawPlots (s : State) (pmod : Word) (ps : List Plot) : State :=
  { s with mem := s.mem.writeWords s.drawBuffer (s.writesOf pmod ps) }

/-! ### The draw prologue and the two kinds of draw command -/

/-- The start of the draw prologue: count the command, and report the draw-mode features that are not admitted
(42_command_processor.md rule R231). -/
def beginDraw (s : State) (pmod : Word) : State :=
  let s1 : State := { s with ctx := { s.ctx with drawCalls := s.ctx.drawCalls + 1 } }
  if pmodUnadmitted pmod then s1.logCommand pmod else s1

/-- The plots of a textured quad command: none when the bounding box is rejected (42_command_processor.md rules R234,
R238). -/
def texturedPlots (d : DrawOps) (t : TexOps) (q : Corners) (s : State) : List Plot :=
  if s.ctx.rejects d.pmod q.list then [] else texQuadPlots s.mem d (textureOf d t) t.hflip t.vflip q

/-- A textured quad command after its corners are known: the prologue, the refusal of colour modes 6 and 7 by a log
(42_command_processor.md rules R231, R236), and the drawing. -/
def drawTextured (d : DrawOps) (t : TexOps) (q : Corners) (s : State) : Host.Outcome State Fault Refusal :=
  guardSprite s fun s =>
    if 6 ≤ pmodCM d.pmod then .next ((beginDraw s d.pmod).logCommand d.pmod)
    else .next ((beginDraw s d.pmod).drawPlots d.pmod (texturedPlots d t q s))

/-- An untextured draw command whose plots are known: the prologue and the drawing (42_command_processor.md rules
R231, R246, R248, R250). -/
def drawSolid (pmod : Word) (ps : List Plot) (s : State) : Host.Outcome State Fault Refusal :=
  guardSprite s fun s => .next ((beginDraw s pmod).drawPlots pmod ps)

end Sys2Proof.Machine
end

