-- ==== Sys2Proof/Machine/Sprites.lean ====
section
/-! DEFINITION. The textured draw commands: NSPR, SSPR, DSPR (42_command_processor.md rules R240, R242, R244). -/

namespace Sys2Proof.Machine

/-- The corners of a normal sprite of `w` by `h` pixels at the position of vertex A (42_command_processor.md rule
R240). -/
def normalCorners (t : TexOps) (va : Vertex) (s : State) : Corners :=
  let p := s.position va
  let x1 := p.x + t.width.toNat - 1
  let y1 := p.y + t.height.toNat - 1
  { a := p, b := { x := x1, y := p.y }, c := { x := x1, y := y1 }, d := { x := p.x, y := y1 } }

/-- `NSPR` (42_command_processor.md rule R240). -/
def execNspr (d : DrawOps) (t : TexOps) (va : Vertex) (s : State) : Host.Outcome State Fault Refusal :=
  drawTextured d t (normalCorners t va s) s

/-- The two ends of a scaled sprite on one axis from its zoom field, the coordinate of vertex A and the displayed
length (42_command_processor.md rule R242): 0 and 1 the first edge, 2 the centre, 3 the second edge. -/
def zoomEnds (zoom : BitVec 2) (a len : Int) : Int × Int :=
  match zoom.toNat with
  | 2 => (a - len / 2, a + (len + 1) / 2)
  | 3 => (a - len, a)
  | _ => (a, a + len)

/-- The columns of a scaled sprite before the local offset: those of A and C when `zp` is 0, from the zoom point
otherwise (42_command_processor.md rule R242). -/
def scaledX (zp : BitVec 4) (va vb vc : Vertex) : Int × Int :=
  if zp = 0#4 then (va.x.toInt, vc.x.toInt) else zoomEnds (zp.extractLsb' 0 2) va.x.toInt vb.x.toInt

/-- The lines of a scaled sprite before the local offset (42_command_processor.md rule R242). -/
def scaledY (zp : BitVec 4) (va vb vc : Vertex) : Int × Int :=
  if zp = 0#4 then (va.y.toInt, vc.y.toInt) else zoomEnds (zp.extractLsb' 2 2) va.y.toInt vb.y.toInt

/-- The corners of a scaled sprite (42_command_processor.md rule R242). -/
def scaledCorners (zp : BitVec 4) (va vb vc : Vertex) (s : State) : Corners :=
  let ex := scaledX zp va vb vc
  let ey := scaledY zp va vb vc
  let o := s.localOffset
  { a := addCoord { x := ex.1, y := ey.1 } o
    b := addCoord { x := ex.2, y := ey.1 } o
    c := addCoord { x := ex.2, y := ey.2 } o
    d := addCoord { x := ex.1, y := ey.2 } o }

/-- `SSPR` (42_command_processor.md rule R242). -/
def execSspr (d : DrawOps) (t : TexOps) (zp : BitVec 4) (va vb vc : Vertex) (s : State) :
    Host.Outcome State Fault Refusal :=
  drawTextured d t (scaledCorners zp va vb vc s) s

/-- The drawing positions of four vertices (42_command_processor.md rules R232, R244, R246). -/
def vertexCorners (va vb vc vd : Vertex) (s : State) : Corners :=
  { a := s.position va, b := s.position vb, c := s.position vc, d := s.position vd }

/-- `DSPR` (42_command_processor.md rule R244). -/
def execDspr (d : DrawOps) (t : TexOps) (va vb vc vd : Vertex) (s : State) : Host.Outcome State Fault Refusal :=
  drawTextured d t (vertexCorners va vb vc vd s) s

end Sys2Proof.Machine
end

