-- ==== Sys2Proof/Machine/Solids.lean ====
section
/-! DEFINITION. The untextured draw commands: POLY, PLIN, LINE (42_command_processor.md rules R246, R248, R250). -/

namespace Sys2Proof.Machine

/-- The plots of a polygon (42_command_processor.md rule R246). -/
def polyPlots (d : DrawOps) (q : Corners) (s : State) : List Plot :=
  if s.ctx.rejects d.pmod q.list then [] else quadPlots s.mem d q

/-- `POLY` (42_command_processor.md rule R246). -/
def execPoly (d : DrawOps) (va vb vc vd : Vertex) (s : State) : Host.Outcome State Fault Refusal :=
  drawSolid d.pmod (polyPlots d (vertexCorners va vb vc vd s) s) s

/-- The plots of polylines: A to B, B to C, C to D, D to A, in this order (42_command_processor.md rule R248). -/
def polylinePlots (d : DrawOps) (q : Corners) (s : State) : List Plot :=
  if s.ctx.rejects d.pmod q.list then []
  else
    linePlots s.mem d 0 0 q.a q.b ++ linePlots s.mem d 0 0 q.b q.c ++ linePlots s.mem d 0 0 q.c q.d ++
      linePlots s.mem d 0 0 q.d q.a

/-- `PLIN` (42_command_processor.md rule R248). -/
def execPlin (d : DrawOps) (va vb vc vd : Vertex) (s : State) : Host.Outcome State Fault Refusal :=
  drawSolid d.pmod (polylinePlots d (vertexCorners va vb vc vd s) s) s

/-- The plots of a line (42_command_processor.md rule R250). -/
def singleLinePlots (d : DrawOps) (a b : Coord) (s : State) : List Plot :=
  if s.ctx.rejects d.pmod [a, b] then [] else linePlots s.mem d 0 0 a b

/-- `LINE` (42_command_processor.md rule R250). -/
def execLine (d : DrawOps) (va vb : Vertex) (s : State) : Host.Outcome State Fault Refusal :=
  drawSolid d.pmod (singleLinePlots d (s.position va) (s.position vb) s) s

end Sys2Proof.Machine
end

