-- ==== Sys2Proof/Machine/Dispatch.lean ====
section
/-! DEFINITION. One arm for each instruction: an operation is what `Execute` does for it (42_command_processor.md rule
R231), a jump mode what `Advance` does (rules R226 to R230). -/

namespace Sys2Proof.Machine

open Sys2Proof

def exec (i : Instr) (s : State) : Host.Outcome State Fault Refusal :=
  match i with
  | .endList => Sys2Proof.Machine.execEndList s
  | .skip => Sys2Proof.Machine.execSkip s
  | .nspr d t va => Sys2Proof.Machine.execNspr d t va s
  | .sspr d t zp va vb vc => Sys2Proof.Machine.execSspr d t zp va vb vc s
  | .dspr d t va vb vc vd => Sys2Proof.Machine.execDspr d t va vb vc vd s
  | .poly d va vb vc vd => Sys2Proof.Machine.execPoly d va vb vc vd s
  | .plin d va vb vc vd => Sys2Proof.Machine.execPlin d va vb vc vd s
  | .line d va vb => Sys2Proof.Machine.execLine d va vb s
  | .uclip upperLeft lowerRight => Sys2Proof.Machine.execUclip upperLeft lowerRight s
  | .sclip lowerRight => Sys2Proof.Machine.execSclip lowerRight s
  | .lcoord va => Sys2Proof.Machine.execLcoord va s
  | .unrec3 => Sys2Proof.Machine.execUnrec3 s
  | .unrec7 => Sys2Proof.Machine.execUnrec7 s
  | .unrecB => Sys2Proof.Machine.execUnrecB s
  | .unrecC => Sys2Proof.Machine.execUnrecC s
  | .unrecD => Sys2Proof.Machine.execUnrecD s
  | .unrecE => Sys2Proof.Machine.execUnrecE s
  | .unrecF => Sys2Proof.Machine.execUnrecF s
  | .jumpNext => Sys2Proof.Machine.execJumpNext s
  | .jumpAssign link => Sys2Proof.Machine.execJumpAssign link s
  | .jumpAssignZero => Sys2Proof.Machine.execJumpAssignZero s
  | .jumpCall link => Sys2Proof.Machine.execJumpCall link s
  | .jumpReturn => Sys2Proof.Machine.execJumpReturn s

end Sys2Proof.Machine
end

