-- ==== Sys2Proof/Machine/Background.lean ====
section
/-! DEFINITION. The BackgroundRenderer: dot fetch and decode, scrolling, mosaic, windows, rotation, back and line
colours, and the accumulators (44_background.md rules R320 to R380; 30_encoding.md rules R127 to R136). It reads
VRAM2, CRAM and `Cfg2` and writes accumulators and line buffers only (rule R385). -/

namespace Sys2Proof.Machine

/-! ### Colours (30_encoding.md rule R129) -/

/-- A 5-bit channel as 8 bits: `c5 << 3` (00_scope.md rule R12). -/
def channel5 (c : BitVec 5) : Byte := c ++ 0#3

/-- A 15-bit direct colour word. -/
def rgb555 (w : Word) : Color :=
  { r := channel5 (w.extractLsb' 0 5), g := channel5 (w.extractLsb' 5 5), b := channel5 (w.extractLsb' 10 5) }

/-- A 24-bit direct colour long. -/
def rgb888 (l : Long) : Color := { r := l.extractLsb' 0 8, g := l.extractLsb' 8 8, b := l.extractLsb' 16 8 }

/-- `Cram(i)`: the colour and the most significant bit of a colour memory entry. A CRMD of 3 is refused before any
entry is read (44_background.md rule R321) and reads as 2 here (assumption log 19). -/
def cramEntry (c : Cfg2) (m : Arena) (i : Nat) : Color × Bool :=
  match c.crmd with
  | 0 =>
    let e := m.read16 .cram (i % 1024 * 2)
    (rgb555 e, e.getLsbD 15)
  | 1 =>
    let e := m.read16 .cram (i % 2048 * 2)
    (rgb555 e, e.getLsbD 15)
  | _ =>
    let e := m.read32 .cram (i % 1024 * 4)
    (rgb888 e, e.getLsbD 31)

/-! ### Dots (30_encoding.md rules R127, R128, R130; 44_background.md rules R330 to R338) -/

/-- Cell bytes `CB` of a colour format (30_encoding.md rule R128). -/
def cellBytes (chcn : Nat) : Nat :=
  match chcn with
  | 0 => 32
  | 1 => 64
  | 2 => 128
  | 3 => 128
  | _ => 256

/-- Dot `n` of packed character or bitmap data at a byte address (30_encoding.md rules R128, R130). Formats above 4
are refused before any dot is read (44_background.md rule R321) and read as 4 here (assumption log 19). -/
def packedDot (m : Arena) (chcn base n : Nat) : Nat :=
  match chcn with
  | 0 =>
    let b := m.read8 .vram2 (base + n / 2)
    if n % 2 = 0 then (b.extractLsb' 4 4).toNat else (b.extractLsb' 0 4).toNat
  | 1 => (m.read8 .vram2 (base + n)).toNat
  | 2 => ((m.read16 .vram2 (base + n * 2)).extractLsb' 0 11).toNat
  | 3 => (m.read16 .vram2 (base + n * 2)).toNat
  | _ => (m.read32 .vram2 (base + n * 4)).toNat

/-- `sfmatch(L, dot)` (44_background.md rule R338). -/
def sfMatch (c : Cfg2) (L : Slot) (dot : Nat) : Bool :=
  decide (c.chcn L < 3) && (if c.sfsel L then c.sfcodeB else c.sfcodeA).testBit (dot % 16 / 2)

/-- The priority of a dot (44_background.md rule R336). -/
def dotPriority (c : Cfg2) (L : Slot) (dot : Nat) (spr : Bool) : BitVec 3 :=
  let p := c.prin L
  match c.sprm L with
  | 1 => (p &&& 6#3) ||| (BitVec.ofBool spr).setWidth 3
  | 2 => (p &&& 6#3) ||| (BitVec.ofBool (spr && sfMatch c L dot)).setWidth 3
  | _ => p

/-- `specialColorCalc` of a dot (44_background.md rule R337). -/
def dotColorCalc (c : Cfg2) (L : Slot) (dot : Nat) (scc msb : Bool) : Bool :=
  match c.sccm L with
  | 0 => true
  | 1 => scc
  | 2 => scc && sfMatch c L dot
  | _ => msb

/-- The colour, the most significant bit, and whether the dot equals the transparent code (44_background.md rule
R335, the table). -/
def dotColor (c : Cfg2) (m : Arena) (L : Slot) (dot pal : Nat) : Color × Bool × Bool :=
  let palette (i : Nat) : Color × Bool × Bool :=
    let e := cramEntry c m (i + c.caos L * 256)
    (e.1, e.2, decide (dot = 0))
  match c.chcn L with
  | 0 => palette ((pal * 16) ||| dot)
  | 1 => palette (((pal &&& 0x70) * 16) ||| dot)
  | 2 => palette dot
  | 3 => (rgb555 (BitVec.ofNat 16 dot), dot.testBit 15, !dot.testBit 15)
  | _ => (rgb888 (BitVec.ofNat 32 dot), dot.testBit 31, !dot.testBit 31)

/-- `Decode(L, dot, pal, spr, scc)` (44_background.md rule R335). -/
def decodeDot (c : Cfg2) (m : Arena) (L : Slot) (dot pal : Nat) (spr scc : Bool) : LayerDot :=
  let d := dotColor c m L dot pal
  { color := d.1
    transparent := c.tpen L && d.2.2
    priority := dotPriority c L dot spr
    specialColorCalc := dotColorCalc c L dot scc d.2.1 }

/-- Dots per character side, `cd = 8 << CHSZ[L]` (44_background.md rule R330). -/
def charSide (c : Cfg2) (L : Slot) : Nat := if c.chsz L then 16 else 8

/-- `CharDot(L, pn, cx, cy)` (44_background.md rule R331, 30_encoding.md rule R127). -/
def charDot (c : Cfg2) (m : Arena) (L : Slot) (pn : Long) (cx cy : Nat) : LayerDot :=
  let cd := charSide c L
  let x := if pn.getLsbD 30 then cd - 1 - cx else cx
  let y := if pn.getLsbD 31 then cd - 1 - cy else cy
  let cell := y / 8 * 2 + x / 8
  let base := ((pn.extractLsb' 0 15).toNat * 0x20 + cell * cellBytes (c.chcn L)) % Config.vram2Bytes
  let dot := packedDot m (c.chcn L) base (y % 8 * 8 + x % 8)
  decodeDot c m L dot (pn.extractLsb' 16 7).toNat (pn.getLsbD 29) (pn.getLsbD 28)

/-- Pages of a plane across (44_background.md rule R330). -/
def planePagesX (c : Cfg2) (L : Slot) : Nat := if (c.plsz L).testBit 0 then 2 else 1

/-- Pages of a plane down (44_background.md rule R330). -/
def planePagesY (c : Cfg2) (L : Slot) : Nat := if (c.plsz L).testBit 1 then 2 else 1

/-- The plane number of a map dot on a map of `n` by `n` planes: `pi` (44_background.md rule R330). -/
def planeNumber (c : Cfg2) (L : Slot) (X Y n : Nat) : Nat :=
  Y / (512 * planePagesY c L) * n + X / (512 * planePagesX c L)

/-- The pattern name address of a map dot: `pnAddr` (44_background.md rule R330). -/
def patternNameAddr (c : Cfg2) (L : Slot) (X Y n : Nat) : Nat :=
  let px := X % (512 * planePagesX c L)
  let py := Y % (512 * planePagesY c L)
  let pg := py / 512 * planePagesX c L + px / 512
  let cd := charSide c L
  let cn := py % 512 / cd * (512 / cd) + px % 512 / cd
  let pageBytes := (512 / cd) * (512 / cd) * 4
  (c.plane L (planeNumber c L X Y n) * 0x1000 + pg * pageBytes + cn * 4) % Config.vram2Bytes

/-- `TileDot(L, sx, sy, m)` on a map of `n` by `n` planes (44_background.md rule R330). -/
def tileDot (c : Cfg2) (m : Arena) (L : Slot) (sx sy : Int) (n : Nat) : LayerDot :=
  let X := (sx % ((512 * planePagesX c L * n : Nat) : Int)).toNat
  let Y := (sy % ((512 * planePagesY c L * n : Nat) : Int)).toNat
  let pn := m.read32 .vram2 (patternNameAddr c L X Y n)
  charDot c m L pn (X % 512 % charSide c L) (Y % 512 % charSide c L)

/-- `BW` (30_encoding.md rule R130). -/
def bitmapWidth (c : Cfg2) (L : Slot) : Nat := if c.bmsz L < 2 then 512 else 1024

/-- `BH` (30_encoding.md rule R130). -/
def bitmapHeight (c : Cfg2) (L : Slot) : Nat := if c.bmsz L % 2 = 0 then 256 else 512

/-- `BitmapDot(L, sx, sy)` (44_background.md rule R333). -/
def bitmapDot (c : Cfg2) (m : Arena) (L : Slot) (sx sy : Int) : LayerDot :=
  let X := (sx % (bitmapWidth c L : Int)).toNat
  let Y := (sy % (bitmapHeight c L : Int)).toNat
  let dot := packedDot m (c.chcn L) (c.bmbase L * 0x20000) (Y * bitmapWidth c L + X)
  decodeDot c m L dot (c.bmpal L * 16) (c.bmspr L) (c.bmscc L)

/-! ### Scrollable layers (44_background.md rules R322 to R328, R340) -/

/-- `MosaicX(L, x)` (44_background.md rule R340). -/
def mosaicX (c : Cfg2) (L : Slot) (x : Nat) : Nat := if c.mze L then x - x % (c.mzszh + 1) else x

/-- The .8 value of a scroll long, `l[26:8]` (30_encoding.md rule R131). -/
def scrollValue (l : Long) : Nat := (l.extractLsb' 8 19).toNat

/-- The .8 value of an increment long, `l[18:8]` (30_encoding.md rule R131). -/
def incrementValue (l : Long) : Nat := (l.extractLsb' 8 11).toNat

/-- A slot takes vertical cell scroll: slot 2 or 3 with LSCTL[5], enabled as a scrollable layer (44_background.md
rule R325). -/
def cellScrolls (c : Cfg2) (L : Slot) : Bool :=
  (L == .nbg0 || L == .nbg1) && (c.lsctl L).getLsbD 5 && c.enabledScroll L

/-- `vcs(L, x)` (44_background.md rule R325). -/
def verticalCellScroll (c : Cfg2) (m : Arena) (L : Slot) (x : Nat) : Nat :=
  if cellScrolls c L then
    let n := (if cellScrolls c .nbg0 then 1 else 0) + (if cellScrolls c .nbg1 then 1 else 0)
    let i := if L == .nbg1 && cellScrolls c .nbg0 then 1 else 0
    scrollValue (m.read32 .vram2 (c.vcsta + 4 * (x / 8 * n + i)))
  else 0

/-- The accumulator of a scrollable slot; the other slots have none (10_state.md rule R63). -/
def Accumulators.scroll (a : Accumulators) : Slot → ScrollAcc
  | .nbg0 => a.nbg0
  | .nbg1 => a.nbg1
  | .nbg2 => a.nbg2
  | .nbg3 => a.nbg3
  | .sprite => ScrollAcc.reset
  | .rbg0 => ScrollAcc.reset

/-- Every scrollable slot's accumulator replaced by a function of the slot and its old value. -/
def Accumulators.mapScroll (a : Accumulators) (f : Slot → ScrollAcc → ScrollAcc) : Accumulators :=
  { a with nbg0 := f .nbg0 a.nbg0, nbg1 := f .nbg1 a.nbg1, nbg2 := f .nbg2 a.nbg2, nbg3 := f .nbg3 a.nbg3 }

/-- The accumulator of a slot at frame initialisation (44_background.md rule R322). -/
def scrollFrameInit (c : Cfg2) (L : Slot) (_ : ScrollAcc) : ScrollAcc :=
  { fracY := 0, lsAddr := BitVec.ofNat 19 (c.lsta L), lsX := 0, lsY := 0, lzX := c.zmx L }

/-- Whether a line reads a record of the line scroll table (44_background.md rule R324). -/
def readsLineRecord (c : Cfg2) (L : Slot) (y : Nat) : Bool :=
  (c.lsctl L).extractLsb' 0 3 != 0#3 && y % 2 ^ ((c.lsctl L).extractLsb' 3 2).toNat == 0

/-- The record of a line: the enabled longs follow one another (44_background.md rule R324, 30_encoding.md rule
R131). -/
def readLineRecord (c : Cfg2) (m : Arena) (L : Slot) (a : ScrollAcc) : ScrollAcc :=
  let hX := (c.lsctl L).getLsbD 0
  let hY := (c.lsctl L).getLsbD 1
  let hZ := (c.lsctl L).getLsbD 2
  let a0 := a.lsAddr.toNat
  let a1 := if hX then a0 + 4 else a0
  let a2 := if hY then a1 + 4 else a1
  let a3 := if hZ then a2 + 4 else a2
  { a with
    lsX := if hX then scrollValue (m.read32 .vram2 a0) else a.lsX
    lsY := if hY then scrollValue (m.read32 .vram2 a1) else a.lsY
    lzX := if hZ then incrementValue (m.read32 .vram2 a2) else a.lzX
    lsAddr := BitVec.ofNat 19 a3 }

/-- `LineScrollUpdate(y)` of one slot (44_background.md rule R324). -/
def lineScrollSlot (c : Cfg2) (m : Arena) (y : Nat) (L : Slot) (a : ScrollAcc) : ScrollAcc :=
  if c.enabledScroll L then
    let b := if readsLineRecord c L y then readLineRecord c m L a else a
    { b with
      lzX := if (c.lsctl L).getLsbD 2 then b.lzX else c.zmx L
      lsX := if (c.lsctl L).getLsbD 0 then b.lsX else 0
      lsY := if (c.lsctl L).getLsbD 1 then b.lsY else 0 }
  else a

/-- A dot of a scrollable layer before its window (44_background.md rule R328). -/
def scrollDot (c : Cfg2) (m : Arena) (a : Accumulators) (L : Slot) (x : Nat) : LayerDot :=
  let xm := mosaicX c L x
  let sa := a.scroll L
  let fx : Int := c.scx L + sa.lsX + xm * sa.lzX
  let fy : Int := c.scy L + sa.fracY + sa.lsY + verticalCellScroll c m L xm
  let sx := fx / 256
  let sy := fy / 256
  if c.bmen L then bitmapDot c m L sx sy else tileDot c m L sx sy 2

/-! ### Windows (44_background.md rules R344 to R346) -/

/-- The registers of a window. -/
structure WindowRegs where
  sx : Nat
  sy : Nat
  ex : Nat
  ey : Nat
  lwe : Bool
  lwta : Nat
deriving DecidableEq, Repr

/-- Window 0 (10_state.md rule R57). -/
def Cfg2.window0 (c : Cfg2) : WindowRegs :=
  { sx := c.w0Sx, sy := c.w0Sy, ex := c.w0Ex, ey := c.w0Ey, lwe := c.w0Lwe, lwta := tableAddress c.w0LwtaHi c.w0LwtaLo }

/-- Window 1 (10_state.md rule R57). -/
def Cfg2.window1 (c : Cfg2) : WindowRegs :=
  { sx := c.w1Sx, sy := c.w1Sy, ex := c.w1Ex, ey := c.w1Ey, lwe := c.w1Lwe, lwta := tableAddress c.w1LwtaHi c.w1LwtaLo }

/-- The horizontal range of a window on a line: its registers, or its line table (44_background.md rule R344,
30_encoding.md rule R133). -/
def windowRange (m : Arena) (w : WindowRegs) (y : Nat) : Nat × Nat :=
  if w.lwe then
    (((m.read16 .vram2 (w.lwta + 4 * y)).extractLsb' 0 10).toNat,
     ((m.read16 .vram2 (w.lwta + 4 * y + 2)).extractLsb' 0 10).toNat)
  else (w.sx, w.ex)

/-- `inside_n(x)` on line `y` (44_background.md rule R344). -/
def insideWindow (m : Arena) (w : WindowRegs) (y x : Nat) : Bool :=
  let r := windowRange m w y
  decide (w.sy ≤ y) && decide (y ≤ w.ey) && decide (r.1 ≤ x) && decide (x ≤ r.2)

/-- `Eval(ws, x)` from the three sources at `x` (44_background.md rule R345, 10_state.md rule R60). -/
def evalWindowSet (ws : BitVec 7) (in0 in1 inS : Bool) : Bool :=
  let terms :=
    (if ws.getLsbD 0 then [in0 != ws.getLsbD 1] else []) ++
    (if ws.getLsbD 2 then [in1 != ws.getLsbD 3] else []) ++
    (if ws.getLsbD 4 then [inS != ws.getLsbD 5] else [])
  if terms.isEmpty then false else if ws.getLsbD 6 then terms.all id else terms.any id

/-- `Eval(ws, x)` on line `y` (44_background.md rules R344, R345). -/
def windowAt (c : Cfg2) (m : Arena) (spr : List SpriteDot) (y : Nat) (ws : BitVec 7) (x : Nat) : Bool :=
  evalWindowSet ws (insideWindow m c.window0 y x) (insideWindow m c.window1 y x)
    (c.spwinen && (spr.getD x SpriteDot.clear).shadowOrWindow)

/-- The first entries of a line buffer replaced by a rendered line. -/
def overlay {α : Type} (line old : List α) : List α := line ++ old.drop line.length

/-- One value for each `x` of a line of `w` pixels. -/
def forLine {α : Type} (w : Nat) (f : Nat → α) : List α := (List.range w).map f

/-- `Windows(y)` on the line buffers of a line of `w` pixels (44_background.md rule R346). -/
def windowsLine (c : Cfg2) (m : Arena) (w y : Nat) (b : LineBuffers) : LineBuffers :=
  let line (ws : BitVec 7) : List Bool := forLine w (windowAt c m b.spr y ws)
  let sprMask := line (c.wctl .sprite)
  { b with
    win :=
      { sprite := overlay sprMask b.win.sprite
        rbg0 := overlay (line (c.wctl .rbg0)) b.win.rbg0
        nbg0 := overlay (line (c.wctl .nbg0)) b.win.nbg0
        nbg1 := overlay (line (c.wctl .nbg1)) b.win.nbg1
        nbg2 := overlay (line (c.wctl .nbg2)) b.win.nbg2
        nbg3 := overlay (line (c.wctl .nbg3)) b.win.nbg3 }
    winCC := overlay (line c.ccwctl) b.winCC
    winRP := overlay (line c.rpwctl) b.winRP
    layer := b.layer.set .sprite
      (overlay
        (forLine w fun x =>
          let d := b.layer.sprite.getD x LayerDot.clear
          if sprMask.getD x false then { d with transparent := true } else d)
        b.layer.sprite) }

/-! ### Rotated layers (44_background.md rules R360 to R368) -/

/-- A long of a rotation parameter table, `sext_32` (30_encoding.md rule R135). -/
def tableLong (m : Arena) (a : Nat) : Int := (m.read32 .vram2 a).toInt

/-- A word of a rotation parameter table, `sext_16` (30_encoding.md rule R135). -/
def tableWord (m : Arena) (a : Nat) : Int := (m.read16 .vram2 a).toInt

/-- The record of a rotation parameter table (30_encoding.md rule R135). -/
def readRotRecord (m : Arena) (base : Nat) : RotRecord :=
  { xst := tableLong m (base + 0x00)
    yst := tableLong m (base + 0x04)
    zst := tableLong m (base + 0x08)
    dXst := tableLong m (base + 0x0C)
    dYst := tableLong m (base + 0x10)
    dX := tableLong m (base + 0x14)
    dY := tableLong m (base + 0x18)
    a := tableLong m (base + 0x1C)
    b := tableLong m (base + 0x20)
    c := tableLong m (base + 0x24)
    d := tableLong m (base + 0x28)
    e := tableLong m (base + 0x2C)
    f := tableLong m (base + 0x30)
    px := tableWord m (base + 0x34)
    py := tableWord m (base + 0x36)
    pz := tableWord m (base + 0x38)
    cx := tableWord m (base + 0x3C)
    cy := tableWord m (base + 0x3E)
    cz := tableWord m (base + 0x40)
    mx := tableLong m (base + 0x44)
    my := tableLong m (base + 0x48)
    kx := tableLong m (base + 0x4C)
    ky := tableLong m (base + 0x50)
    kast := ((m.read32 .vram2 (base + 0x54)).toNat : Int)
    dKast := tableLong m (base + 0x58)
    dKax := tableLong m (base + 0x5C) }

/-- A rotation set at frame initialisation (44_background.md rule R360). -/
def rotFrameInit (m : Arena) (base : Nat) : RotAcc :=
  let rp := readRotRecord m base
  { rp := rp, xstAcc := rp.xst, ystAcc := rp.yst, kaAcc := rp.kast }

/-- A rotation set at the end of a line (44_background.md rule R326). -/
def RotAcc.advance (a : RotAcc) : RotAcc :=
  { a with xstAcc := a.xstAcc + a.rp.dXst, ystAcc := a.ystAcc + a.rp.dYst, kaAcc := a.kaAcc + a.rp.dKast }

/-- `FrameInit()` on the accumulators (44_background.md rules R322, R360). -/
def frameInitAcc (c : Cfg2) (m : Arena) (a : Accumulators) : Accumulators :=
  { a.mapScroll (scrollFrameInit c) with
    rotA := rotFrameInit m c.rpta
    rotB := rotFrameInit m (c.rpta + 0x80) }

/-- `AdvanceLine(y)` on the accumulators (44_background.md rule R326). -/
def advanceLineAcc (c : Cfg2) (a : Accumulators) : Accumulators :=
  { a.mapScroll (fun L s => { s with fracY := s.fracY + c.zmy L }) with
    rotA := a.rotA.advance
    rotB := a.rotB.advance }

/-- `mul(a, b) = (a * b) >> 16` (44_background.md rule R361). -/
def fixMul (a b : Int) : Int := a * b / 0x10000

/-- The accumulators of a parameter set. -/
def Accumulators.rot (a : Accumulators) : ParamSet → RotAcc
  | .a => a.rotA
  | .b => a.rotB

/-- The per-line values of a parameter set (44_background.md rule R362). -/
structure RotLine where
  xsp : Int
  ysp : Int
  xp : Int
  yp : Int
  dXs : Int
  dYs : Int
deriving DecidableEq, Repr

/-- The per-line values of a parameter set (44_background.md rule R362). -/
def rotLine (r : RotAcc) : RotLine :=
  let p := r.rp
  let x := r.xstAcc - p.px * 0x10000
  let y := r.ystAcc - p.py * 0x10000
  let z := p.zst - p.pz * 0x10000
  { xsp := fixMul p.a x + fixMul p.b y + fixMul p.c z
    ysp := fixMul p.d x + fixMul p.e y + fixMul p.f z
    xp := p.a * (p.px - p.cx) + p.b * (p.py - p.cy) + p.c * (p.pz - p.cz) + p.cx * 0x10000 + p.mx
    yp := p.d * (p.px - p.cx) + p.e * (p.py - p.cy) + p.f * (p.pz - p.cz) + p.cy * 0x10000 + p.my
    dXs := fixMul p.a p.dX + fixMul p.b p.dY
    dYs := fixMul p.d p.dX + fixMul p.e p.dY }

/-- A fetched coefficient (44_background.md rule R363). -/
structure Coefficient where
  transparent : Bool
  k : Int
deriving DecidableEq, Repr

/-- A two-word coefficient entry (30_encoding.md rule R136). -/
def coefficientOfLong (kmd : Nat) (e : Long) : Coefficient :=
  let k := (e.extractLsb' 0 24).toInt
  { transparent := e.getLsbD 31, k := if kmd = 3 then k * 0x100 else k }

/-- A one-word coefficient entry (30_encoding.md rule R136). -/
def coefficientOfWord (kmd : Nat) (e : Word) : Coefficient :=
  let k := (e.extractLsb' 0 15).toInt
  { transparent := e.getLsbD 15, k := if kmd = 3 then k * 0x4000 else k * 0x40 }

/-- The 128 KiB bank of a VRAM2 address is designated coefficient data (44_background.md rule R363). -/
def coefficientBank (c : Cfg2) (a : Nat) : Bool := c.rdbs / 4 ^ (a / 0x20000) % 4 == 1

/-- The entry number of the coefficient of a dot (44_background.md rule R363). -/
def coefficientNumber (c : Cfg2) (r : RotAcc) (P : ParamSet) (xm : Nat) : Int :=
  (r.kaAcc + (if c.kdot P then r.rp.dKax * xm else 0)) / 0x10000

/-- `Coef(P, xm)` (44_background.md rule R363). -/
def fetchCoefficient (c : Cfg2) (m : Arena) (r : RotAcc) (P : ParamSet) (xm : Nat) : Coefficient :=
  let sz : Int := if c.kdbs P then 2 else 4
  let at' : Int := c.ktbase P + coefficientNumber c r P xm * sz
  let entry (id : MemId) (a : Nat) : Coefficient :=
    if c.kdbs P then coefficientOfWord (c.kmd P) (m.read16 id a) else coefficientOfLong (c.kmd P) (m.read32 id a)
  if c.crkte then entry .cram (at' % (Config.cramBytes : Int)).toNat
  else
    let a := (at' % (Config.vram2Bytes : Int)).toNat
    if coefficientBank c a then entry .vram2 a else { transparent := true, k := 0 }

/-- The parameter set of a dot (44_background.md rule R364). -/
def paramSetOf (c : Cfg2) (m : Arena) (a : Accumulators) (L : Slot) (winRP : Bool) (xm : Nat) : ParamSet :=
  if L == .nbg0 then .b
  else
    match c.rpmd with
    | 0 => .a
    | 1 => .b
    | 2 => if c.kteA && (fetchCoefficient c m a.rotA .a xm).transparent then .b else .a
    | _ => if winRP then .b else .a

/-- The coordinates of a dot of a rotation layer in a parameter set (44_background.md rule R365). -/
def rotCoordAt (c : Cfg2) (m : Arena) (a : Accumulators) (P : ParamSet) (xm : Nat) : RotCoord :=
  let r := a.rot P
  let l := rotLine r
  let co : Coefficient := if c.kte P then fetchCoefficient c m r P xm else { transparent := false, k := 0 }
  let use := c.kte P && !co.transparent
  let kx := if use && (c.kmd P == 0 || c.kmd P == 1) then co.k else r.rp.kx
  let ky := if use && (c.kmd P == 0 || c.kmd P == 2) then co.k else r.rp.ky
  let xp := if use && c.kmd P == 3 then co.k else l.xp
  { sx := (fixMul kx (l.xsp + l.dXs * xm) + xp) / 0x10000
    sy := (fixMul ky (l.ysp + l.dYs * xm) + l.yp) / 0x10000
    transparent := co.transparent }

/-- `RotDot(L, P, sx, sy)` (44_background.md rule R368). -/
def rotDot (c : Cfg2) (m : Arena) (L : Slot) (P : ParamSet) (sx sy : Int) : LayerDot :=
  let areaW : Nat :=
    if c.over P = 3 then 512 else if c.bmen L then bitmapWidth c L else 4 * 512 * planePagesX c L
  let areaH : Nat :=
    if c.over P = 3 then 512 else if c.bmen L then bitmapHeight c L else 4 * 512 * planePagesY c L
  let inside := decide (0 ≤ sx) && decide (sx < areaW) && decide (0 ≤ sy) && decide (sy < areaH)
  let normal := if c.bmen L then bitmapDot c m L sx sy else tileDot c m L sx sy 4
  if inside then normal
  else
    match c.over P with
    | 0 => normal
    | 1 =>
      if c.bmen L then normal
      else
        let cd : Int := charSide c L
        charDot c m L (BitVec.ofNat 32 (c.ovpn P % 0x8000)) (sx % cd).toNat (sy % cd).toNat
    | _ => LayerDot.clear

/-- The line of `rotCoord[L]` (44_background.md rule R365). -/
def rotCoordLine (c : Cfg2) (m : Arena) (a : Accumulators) (b : LineBuffers) (w : Nat) (L : Slot) : List RotCoord :=
  forLine w fun x =>
    let xm := mosaicX c L x
    rotCoordAt c m a (paramSetOf c m a L (b.winRP.getD x false) xm) xm

/-- A dot of a rotation layer before its window, from its entry of `rotCoord[L]` (44_background.md rule R367). -/
def rotLayerDot (c : Cfg2) (m : Arena) (a : Accumulators) (b : LineBuffers) (L : Slot) (rc : RotCoord) (x : Nat) :
    LayerDot :=
  if rc.transparent then LayerDot.clear
  else rotDot c m L (paramSetOf c m a L (b.winRP.getD x false) (mosaicX c L x)) rc.sx rc.sy

/-! ### The layers of a line -/

/-- `win[L][x]`. -/
def LineBuffers.masked (b : LineBuffers) (L : Slot) (x : Nat) : Bool := (b.win.get L).getD x false

/-- The buffers with the line of `rotCoord[L]` written; only slots 1 and 2 have one (10_state.md rule R65). -/
def LineBuffers.setRotCoord (b : LineBuffers) (L : Slot) (line : List RotCoord) : LineBuffers :=
  match L with
  | .rbg0 => { b with rotCoord1 := overlay line b.rotCoord1 }
  | .nbg0 => { b with rotCoord2 := overlay line b.rotCoord2 }
  | _ => b

/-- The buffers with the line of `layer[L]` written. -/
def LineBuffers.setLayer (b : LineBuffers) (L : Slot) (line : List LayerDot) : LineBuffers :=
  { b with layer := b.layer.set L (overlay line (b.layer.get L)) }

/-- `BackgroundLayer(L, y)` (44_background.md rules R320, R328, R367). -/
def backgroundLayer (c : Cfg2) (m : Arena) (a : Accumulators) (w : Nat) (b : LineBuffers) (L : Slot) : LineBuffers :=
  if !c.enabled L then b.setLayer L (forLine w fun _ => LayerDot.clear)
  else if c.isRotation L then
    let coords := rotCoordLine c m a b w L
    (b.setRotCoord L coords).setLayer L
      (forLine w fun x =>
        if b.masked L x then LayerDot.clear else rotLayerDot c m a b L (coords.getD x RotCoord.clear) x)
  else
    b.setLayer L (forLine w fun x => if b.masked L x then LayerDot.clear else scrollDot c m a L x)

/-- `LineColours(y)` (44_background.md rule R380, 30_encoding.md rule R134). -/
def lineColoursAcc (c : Cfg2) (m : Arena) (y : Nat) (a : Accumulators) : Accumulators :=
  { a with
    backColor := rgb555 (m.read16 .vram2 (c.bkta + 2 * (if c.bkclmd then y else 0)))
    lineColor :=
      (cramEntry c m ((m.read16 .vram2 (c.lcta + 2 * (if c.lcclmd then y else 0))).extractLsb' 0 11).toNat).1 }

/-- `LineScrollUpdate(y)` (44_background.md rule R324). -/
def lineScrollAcc (c : Cfg2) (m : Arena) (y : Nat) (a : Accumulators) : Accumulators :=
  a.mapScroll (lineScrollSlot c m y)

end Sys2Proof.Machine
end

