-- ==== Sys2Proof/Machine/Compositor.lean ====
section
/-! DEFINITION. The LayerCompositor: sprite layer, selection, colour calculation, shadow, colour offset, output
(45_compositor.md rules R402 to R430), and one rendered scanline (43_display_timing.md rule R296). -/

namespace Sys2Proof.Machine

/-! ### The sprite layer (45_compositor.md rule R402, 30_encoding.md rule R126) -/

/-- The fields of a sprite framebuffer word; `dcWidth` is the width of `dc`. -/
structure SpriteFields where
  sd : Bool
  pr : Nat
  cc : Nat
  dc : Nat
  dcWidth : Nat
deriving DecidableEq, Repr

/-- The fields of a word for a sprite type; a missing field is 0 (30_encoding.md rule R126). Types 8 to 15 are refused
before any word is decoded (93_implementation_defined.md U6) and read as 7 here (assumption log 19). -/
def spriteFields (sptype : Nat) (p : Word) : SpriteFields :=
  let bits (lo w : Nat) : Nat := (p.extractLsb' lo w).toNat
  match sptype with
  | 0 => { sd := false, pr := bits 14 2, cc := bits 11 3, dc := bits 0 11, dcWidth := 11 }
  | 1 => { sd := false, pr := bits 13 3, cc := bits 11 2, dc := bits 0 11, dcWidth := 11 }
  | 2 => { sd := p.getLsbD 15, pr := bits 14 1, cc := bits 11 3, dc := bits 0 11, dcWidth := 11 }
  | 3 => { sd := p.getLsbD 15, pr := bits 13 2, cc := bits 11 2, dc := bits 0 11, dcWidth := 11 }
  | 4 => { sd := p.getLsbD 15, pr := bits 13 2, cc := bits 10 3, dc := bits 0 10, dcWidth := 10 }
  | 5 => { sd := p.getLsbD 15, pr := bits 12 3, cc := bits 11 1, dc := bits 0 11, dcWidth := 11 }
  | 6 => { sd := p.getLsbD 15, pr := bits 12 3, cc := bits 10 2, dc := bits 0 10, dcWidth := 10 }
  | _ => { sd := p.getLsbD 15, pr := bits 12 3, cc := bits 9 3, dc := bits 0 9, dcWidth := 9 }

/-- The layer entry of a sprite framebuffer word (45_compositor.md rule R402). -/
def spriteLayerDot (c : Cfg2) (m : Arena) (p : Word) : LayerDot :=
  if c.spclmd && p.getLsbD 15 then
    { color := rgb555 p, transparent := false, priority := c.sppri 0, specialColorCalc := true }
  else
    let f := spriteFields c.sptype p
    { color := (cramEntry c m (f.dc + c.caos .sprite * 256)).1
      transparent := decide (f.dc = 0)
      priority := c.sppri f.pr
      specialColorCalc := true }

/-- The sprite attributes of a sprite framebuffer word (45_compositor.md rule R402). -/
def spriteAttributes (c : Cfg2) (m : Arena) (p : Word) : SpriteDot :=
  if c.spclmd && p.getLsbD 15 then
    { msbSet := true, colorCalcRatio := 0, shadowOrWindow := false, normalShadow := false }
  else
    let f := spriteFields c.sptype p
    { msbSet := (cramEntry c m (f.dc + c.caos .sprite * 256)).2
      colorCalcRatio := BitVec.ofNat 3 f.cc
      shadowOrWindow := f.sd
      normalShadow := decide (f.dc = 2 ^ f.dcWidth - 2) }

/-- The framebuffer word shown at an output position: one pixel covers two output pixels in the 640 and 704 modes
(45_compositor.md rule R402). -/
def State.displayedWord (s : State) (x y : Nat) : Word :=
  s.fbReadDisplay (if s.timing.hires then x / 2 else x) y

/-- `SpriteLayer(y)` (45_compositor.md rule R402). -/
def spriteLayer (s : State) (y : Nat) : LineBuffers :=
  let w := s.timing.outW
  let b := s.buf
  { b.setLayer .sprite (forLine w fun x => spriteLayerDot s.cfg2 s.mem (s.displayedWord x y)) with
    spr := overlay (forLine w fun x => spriteAttributes s.cfg2 s.mem (s.displayedWord x y)) b.spr }

/-! ### Selection (45_compositor.md rules R405 to R410) -/

/-- A candidate: the entry of a slot, or the back pseudo-layer. -/
inductive Entry where
  | slot (L : Slot)
  | back
deriving DecidableEq, Repr

/-- The slots in index order. -/
def allSlots : List Slot := [.sprite, .rbg0, .nbg0, .nbg1, .nbg2, .nbg3]

/-- The entry of a slot at a pixel. -/
def LineBuffers.dot (b : LineBuffers) (L : Slot) (x : Nat) : LayerDot := (b.layer.get L).getD x LayerDot.clear

/-- The sprite attributes at a pixel. -/
def LineBuffers.sprite (b : LineBuffers) (x : Nat) : SpriteDot := b.spr.getD x SpriteDot.clear

/-- A slot is a candidate at a pixel (45_compositor.md rule R405). -/
def LineBuffers.candidate (b : LineBuffers) (x : Nat) (L : Slot) : Bool :=
  let d := b.dot L x
  !d.transparent && d.priority != 0#3 && !(L == .sprite && (b.sprite x).normalShadow)

/-- Insert a slot behind every slot of at least its priority: slots taken in index order are sorted by priority,
highest first, equal ones in index order (45_compositor.md rule R406). -/
def insertByPriority (pri : Slot → Nat) (L : Slot) : List Slot → List Slot
  | [] => [L]
  | M :: rest => if pri L ≤ pri M then M :: insertByPriority pri L rest else L :: M :: rest

/-- The candidates in the order of the selection, the back pseudo-layer last (45_compositor.md rules R405, R406). -/
def LineBuffers.ranked (b : LineBuffers) (x : Nat) : List Entry :=
  (((allSlots.filter (b.candidate x)).foldl (fun acc L => insertByPriority (fun M => (b.dot M x).priority.toNat) L acc)
    []).map Entry.slot) ++ [.back]

/-- The attributes of a selected entry (45_compositor.md rule R410). -/
structure EntryAttrs where
  col : Color
  ccen : Bool
  ratio : Nat
  scc : Bool
  lcen : Bool
  sden : Bool
  coen : Bool
  cosl : Bool
deriving DecidableEq, Repr

/-- The attributes of a selected entry at pixel `x` (45_compositor.md rule R410). -/
def entryAttrs (c : Cfg2) (a : Accumulators) (b : LineBuffers) (x : Nat) : Entry → EntryAttrs
  | .slot .sprite =>
    { col := (b.dot .sprite x).color
      ccen := c.ccen .sprite
      ratio := c.spccrt (b.sprite x).colorCalcRatio.toNat
      scc := true
      lcen := c.lcen .sprite
      sden := false
      coen := c.coen .sprite
      cosl := c.cosl .sprite }
  | .slot L =>
    { col := (b.dot L x).color
      ccen := c.ccen L
      ratio := c.ccrt L
      scc := (b.dot L x).specialColorCalc
      lcen := c.lcen L
      sden := c.sden L
      coen := c.coen L
      cosl := c.cosl L }
  | .back =>
    { col := a.backColor
      ccen := c.bkccen
      ratio := c.bkccrt
      scc := true
      lcen := false
      sden := c.bksden
      coen := c.bkcoen
      cosl := c.bkcosl }

/-! ### Colour calculation (45_compositor.md rules R412 to R416) -/

/-- A function of each channel. -/
def mapChannels (f : Nat → Nat) (p : Color) : Color :=
  { r := BitVec.ofNat 8 (f p.r.toNat), g := BitVec.ofNat 8 (f p.g.toNat), b := BitVec.ofNat 8 (f p.b.toNat) }

/-- A function of each pair of channels. -/
def zipChannels (f : Nat → Nat → Nat) (p q : Color) : Color :=
  { r := BitVec.ofNat 8 (f p.r.toNat q.r.toNat)
    g := BitVec.ofNat 8 (f p.g.toNat q.g.toNat)
    b := BitVec.ofNat 8 (f p.b.toNat q.b.toNat) }

/-- `Ratio(a, b, q)` (45_compositor.md rule R416). -/
def ratioBlend (p q : Color) (ratio : Nat) : Color :=
  zipChannels (fun x y => (x * (31 - ratio) + y * (ratio + 1)) / 32) p q

/-- `Add(a, b)` (45_compositor.md rule R416). -/
def addBlend (p q : Color) : Color := zipChannels (fun x y => min 255 (x + y)) p q

/-- The average of rule R414 of 45_compositor.md. -/
def averageBlend (p q : Color) : Color := zipChannels (fun x y => (x + y) / 2) p q

/-- `SpriteCond(x)` (45_compositor.md rule R412). -/
def spriteCond (c : Cfg2) (b : LineBuffers) (x : Nat) : Bool :=
  let p := (b.dot .sprite x).priority.toNat
  match c.spcccs with
  | 0 => decide (p ≤ c.spccn)
  | 1 => decide (p = c.spccn)
  | 2 => decide (c.spccn ≤ p)
  | _ => (b.sprite x).msbSet

/-- Whether the top entry is blended, given that there is a second (45_compositor.md rule R412). -/
def blends (c : Cfg2) (b : LineBuffers) (x : Nat) (top : Entry) (ta : EntryAttrs) : Bool :=
  ta.ccen && ta.scc && !b.winCC.getD x false && (top != .slot .sprite || spriteCond c b x)

/-- The bottom operand (45_compositor.md rule R414). -/
def bottomOperand (c : Cfg2) (a : Accumulators) (ta sa : EntryAttrs) (third : Option EntryAttrs) : Color :=
  let under :=
    match third with
    | some t => if c.exccen && sa.ccen then averageBlend sa.col t.col else sa.col
    | none => sa.col
  if ta.lcen then (if c.lcccen then ratioBlend a.lineColor under c.lcccrt else a.lineColor) else under

/-- `mix`: the top entry's colour, blended where rule R412 says so (45_compositor.md rules R412 to R416). -/
def mixColor (c : Cfg2) (a : Accumulators) (b : LineBuffers) (x : Nat) (top : Entry) (second third : Option Entry) :
    Color :=
  let ta := entryAttrs c a b x top
  match second with
  | none => ta.col
  | some e =>
    let sa := entryAttrs c a b x e
    if blends c b x top ta then
      let bottom := bottomOperand c a ta sa (third.map (entryAttrs c a b x))
      if c.ccmd then addBlend ta.col bottom
      else ratioBlend ta.col bottom (if c.ccrtmd then sa.ratio else ta.ratio)
    else ta.col

/-! ### Shadow and colour offset (45_compositor.md rules R418, R420) -/

/-- `shadow` (45_compositor.md rule R418). -/
def shadowed (c : Cfg2) (b : LineBuffers) (x : Nat) (ta : EntryAttrs) : Bool :=
  ((b.sprite x).normalShadow || (!c.spwinen && (b.sprite x).shadowOrWindow)) && ta.sden

/-- One channel plus a signed offset, clamped to 0 .. 255 (45_compositor.md rule R420). -/
def offsetChannel (v : Byte) (o : Int) : Byte := BitVec.ofNat 8 (min (max (v.toNat + o) 0) 255).toNat

/-- The colour offset of an entry (45_compositor.md rule R420). -/
def offsetColor (c : Cfg2) (ta : EntryAttrs) (p : Color) : Color :=
  if ta.coen then
    if ta.cosl then
      { r := offsetChannel p.r c.cobR, g := offsetChannel p.g c.cobG, b := offsetChannel p.b c.cobB }
    else { r := offsetChannel p.r c.coaR, g := offsetChannel p.g c.coaG, b := offsetChannel p.b c.coaB }
  else p

/-- `Pixel(x)` (45_compositor.md rules R404 to R420). -/
def composePixel (c : Cfg2) (a : Accumulators) (b : LineBuffers) (x : Nat) : Color :=
  match b.ranked x with
  | [] => a.backColor
  | top :: rest =>
    let ta := entryAttrs c a b x top
    let mix := mixColor c a b x top rest[0]? rest[1]?
    let sh := if shadowed c b x ta then mapChannels (· / 2) mix else mix
    offsetColor c ta sh

/-! ### Output (45_compositor.md rule R430, 30_encoding.md rule R147) -/

/-- An output pixel (30_encoding.md rule R147). -/
def outputPixel (p : Color) : Long := 0xFF#8 ++ p.b ++ p.g ++ p.r

/-- The constant of a disabled display (30_encoding.md rule R147). -/
def blankPixel : Long := 0xFF000000

/-- The frame with one row written. -/
def OutFrame.writeRow (f : OutFrame) (y : Nat) (row : List Long) : OutFrame :=
  { f with rows := insertCell f.rows y row }

/-- Entry `(x, y)` of the frame: what was written, or the unspecified content of a fresh buffer (10_state.md rule
R70). -/
def OutFrame.pixel (f : OutFrame) (x y : Nat) : Long :=
  match lookupCell f.rows y with
  | some row => row.getD x (Config.freshPixel f.fresh (y * f.width + x))
  | none => Config.freshPixel f.fresh (y * f.width + x)

/-- A fresh output buffer in place of the old one (43_display_timing.md rule R294, 10_state.md rule R70). -/
def State.freshFrame (s : State) (w h : Nat) : State :=
  { s with outFrame := { width := w, height := h, fresh := s.freshCount, rows := [] }, freshCount := s.freshCount + 1 }

/-- `Compose(y)`: the row of pixels (45_compositor.md rule R404). -/
def composeRow (c : Cfg2) (a : Accumulators) (b : LineBuffers) (w : Nat) : List Long :=
  forLine w fun x => outputPixel (composePixel c a b x)

/-! ### One scanline (43_display_timing.md rule R296) -/

/-- The accumulators in force on line `y`: colours, then line scroll. -/
def lineAcc (s : State) (y : Nat) : Accumulators :=
  lineScrollAcc s.cfg2 s.mem y (lineColoursAcc s.cfg2 s.mem y s.acc)

/-- The line buffers of line `y`: sprite layer, windows, background layers in slot order. -/
def lineBuffers (s : State) (y : Nat) : LineBuffers :=
  let w := s.timing.outW
  [Slot.rbg0, .nbg0, .nbg1, .nbg2, .nbg3].foldl (backgroundLayer s.cfg2 s.mem (lineAcc s y) w)
    (windowsLine s.cfg2 s.mem w y (spriteLayer s y))

/-- A scanline with the display on. -/
def renderComposed (s : State) (y : Nat) : State :=
  let a := lineAcc s y
  let b := lineBuffers s y
  { s with
    buf := b
    outFrame := s.outFrame.writeRow y (composeRow s.cfg2 a b s.timing.outW)
    acc := advanceLineAcc s.cfg2 a }

/-- A scanline with the display off (45_compositor.md rule R430). -/
def renderBlank (s : State) (y : Nat) : State :=
  { s with outFrame := s.outFrame.writeRow y (List.replicate s.timing.outW blankPixel) }

/-- `RenderScanline(y)` (43_display_timing.md rule R296), refused in the configurations of rule R321 of
44_background.md and of 93_implementation_defined.md U6 (assumption log 8, 9). -/
def renderScanline (s : State) (y : Nat) : Host.Outcome State Fault Refusal :=
  if s.cfg2.disp then
    guardSprite s fun s =>
      if s.cfg2.backgroundAdmitted then .next (renderComposed s y) else .refused .backgroundConfig
  else .next (renderBlank s y)

end Sys2Proof.Machine
end

