-- ==== Sys2Proof/Machine/Display.lean ====
section
/-! DEFINITION. The DisplayTimingController: the phase event and its entry actions (43_display_timing.md rules R284 to
R295). Both handlers of rule R281 are this one function. -/

namespace Sys2Proof.Machine

/-- The state with another timing state. -/
def State.withTiming (s : State) (t : Timing) : State := { s with timing := t }

/-- The horizontal phase after a phase (43_display_timing.md rule R284). -/
def nextHPhase : HPhase → HPhase
  | .active => .rightBorder
  | .rightBorder => .sync
  | .sync => .vblankOut
  | .vblankOut => .leftBorder
  | .leftBorder => .lastDot
  | .lastDot => .active

/-- The duration of a horizontal phase (43_display_timing.md rule R282). -/
def phaseCycles (h : HTimes) : HPhase → Nat
  | .active => h.active
  | .rightBorder => h.rightBorder
  | .sync => h.sync
  | .vblankOut => h.vblankOut
  | .leftBorder => h.leftBorder
  | .lastDot => h.lastDot

/-- `EnterHRightBorder()` (43_display_timing.md rule R285). -/
def enterHRightBorder (s : State) : State := if s.timing.vphase = .active then s.trigger .hblankStart else s

/-- The swap of rule R292 is due: automatic mode or a manual request (43_display_timing.md rule R292). -/
def State.swapDue (s : State) : Bool := s.reg1.fbSwapMode == 0#1 || s.fbc.manualSwap

/-- `EnterHVBlankOut()` (43_display_timing.md rule R292). -/
def enterHVBlankOut (s : State) : Host.Outcome State Fault Refusal :=
  if s.timing.vphase = .lastLine ∧ s.swapDue = true then
    swap { s with fbc := { s.fbc with manualSwap := false } }
  else .next s

/-- `EnterVActive()` (43_display_timing.md rule R293). -/
def enterVActive (s : State) : State := s.withTiming { s.timing with vcnt := 0, periphDone := false }

/-- The erase at vertical blanking is configured (43_display_timing.md rule R289). -/
def State.eraseDue (s : State) : Bool := s.reg1.vblankErase == 1#1 || s.reg1.fbSwapMode == 0#1

/-- `EraseIfConfigured()` (43_display_timing.md rule R289). -/
def eraseIfConfigured (s : State) : Host.Outcome State Fault Refusal :=
  if s.eraseDue then eraseActive s else .next s

/-- The frame-complete callback: the record carries a copy of `outFrame` (43_display_timing.md rule R297). -/
def frameComplete (s : State) : State := s.emit (.frameComplete s.outFrame s.timing.outW s.timing.outH)

/-- `EnterVBottomBorder()` (43_display_timing.md rule R288). -/
def enterVBottomBorder (s : State) : Host.Outcome State Fault Refusal :=
  andThen (eraseIfConfigured (s.trigger .vblankStart)) fun s1 => .next (frameComplete s1)

/-- The resolution requested in `Cfg2` put in force (43_display_timing.md rule R294). -/
def State.takeResolution (s : State) : State :=
  s.withTiming
    { s.timing with actHRES := s.cfg2.hres, actVRES := s.cfg2.vres, actLSMD := s.cfg2.lsmd, resPending := false }

/-- `EnterVTopBorder()` (43_display_timing.md rule R294). -/
def enterVTopBorder (s : State) : State :=
  if s.timing.resPending then
    let s1 := s.takeResolution
    (s1.emit (.resolutionChange s1.timing.outW s1.timing.outH)).freshFrame s1.timing.outW s1.timing.outH
  else s

/-- `EnterVLastLine()` (43_display_timing.md rule R290). -/
def enterVLastLine (s : State) : State := s.trigger .vblankEnd

/-- The state in another vertical phase. -/
def State.inVPhase (s : State) (v : VPhase) : State := s.withTiming { s.timing with vphase := v }

/-- The vertical transition of one line, at most one (43_display_timing.md rule R286). -/
def verticalTransition (s : State) : Host.Outcome State Fault Refusal :=
  match s.timing.vphase with
  | .active =>
    if s.vt.bottomBorder ≤ s.timing.vcnt then enterVBottomBorder (s.inVPhase .bottomBorder) else .next s
  | .bottomBorder =>
    if s.vt.blankingAndSync ≤ s.timing.vcnt then .next (s.inVPhase .blankingAndSync) else .next s
  | .blankingAndSync =>
    if s.vt.topBorder ≤ s.timing.vcnt then .next (enterVTopBorder (s.inVPhase .topBorder)) else .next s
  | .topBorder =>
    if s.vt.lastLine ≤ s.timing.vcnt then .next (enterVLastLine (s.inVPhase .lastLine)) else .next s
  | .lastLine =>
    if s.vt.total ≤ s.timing.vcnt then .next (enterVActive (s.inVPhase .active)) else .next s

/-- `PeripheralCheck()`; `VCNT >= A - PERIPH_LEAD_LINES` is said without subtraction (43_display_timing.md rule
R291). -/
def peripheralCheck (s : State) : State :=
  if s.timing.vphase = .active ∧ s.timing.periphDone = false ∧
      s.vt.bottomBorder ≤ s.timing.vcnt + Config.periphLeadLines then
    (s.trigger .peripheralRead).withTiming { s.timing with periphDone := true }
  else s

/-- `VCNT <- VCNT + 1` (43_display_timing.md rule R286). -/
def State.countLine (s : State) : State := s.withTiming { s.timing with vcnt := s.timing.vcnt + 1 }

/-- `EnterHLastDot()` (43_display_timing.md rule R286). -/
def enterHLastDot (s : State) : Host.Outcome State Fault Refusal :=
  andThen (verticalTransition s.countLine) fun s1 => .next (peripheralCheck s1)

/-- `FrameInit()` (44_background.md rules R322, R360). -/
def frameInit (s : State) : State := { s with acc := frameInitAcc s.cfg2 s.mem s.acc }

/-- `EnterHActive()` (43_display_timing.md rule R295). -/
def enterHActive (s : State) : Host.Outcome State Fault Refusal :=
  if s.timing.vphase = .active then
    renderScanline (if s.timing.vcnt = 0 then frameInit s else s) s.timing.vcnt
  else .next s

/-- The state in the next horizontal phase (43_display_timing.md rule R284). -/
def State.nextPhase (s : State) : State := s.withTiming { s.timing with hphase := nextHPhase s.timing.hphase }

/-- The entry action of a horizontal phase (43_display_timing.md rule R284). -/
def enterHPhase (h : HPhase) (s : State) : Host.Outcome State Fault Refusal :=
  match h with
  | .active => enterHActive s
  | .rightBorder => .next (enterHRightBorder s)
  | .sync => .next s
  | .vblankOut => enterHVBlankOut s
  | .leftBorder => .next s
  | .lastDot => enterHLastDot s

/-- `return HT[actHRES[1:0]].(hphase)`: the table is read after the entry action (43_display_timing.md rule R284). -/
def State.returnCycles (s : State) : State := { s with result := .cycles (phaseCycles s.ht s.timing.hphase) }

/-- `PhaseEvent()` (43_display_timing.md rule R284). -/
def phaseEvent (s : State) : Host.Outcome State Fault Refusal :=
  andThen (enterHPhase (nextHPhase s.timing.hphase) s.nextPhase) fun s1 => .next s1.returnCycles

end Sys2Proof.Machine
end

