-- ==== Sys2Proof/Machine/Reset.lean ====
section
/-! DEFINITION. The two resets (70_reset_and_hazards.md rules R480 to R483). -/

namespace Sys2Proof.Machine

/-- Every register, latch, configuration field, timing value, accumulator and line buffer at its reset value, and a
fresh output frame of 320 by 224: `LogicReset()` before its entry actions. The memories, the records and the model's
own fields are kept (70_reset_and_hazards.md rule R483; 10_state.md rule R71). -/
def State.logicCleared (s : State) : State :=
  { s with
    reg1 := Reg1.reset
    fbc := FbControl.reset
    ctx := RenderContext.reset
    timing := Timing.reset
    cfg2 := []
    acc := Accumulators.reset
    buf := LineBuffers.reset }.freshFrame 320 224

/-- `LogicReset()` (70_reset_and_hazards.md rule R483). -/
def logicReset (s : State) : Host.Outcome State Fault Refusal := enterHActive (enterVActive s.logicCleared)

/-- The memories at the reset pattern, the framebuffers cleared (70_reset_and_hazards.md rule R481). -/
def resetArena (p : Params) : Arena :=
  { vram1 := p.fillVram1, fb0 := [], fb1 := [], vram2 := p.fillVram2, cram := p.fillCram }

/-- `HardReset()` (70_reset_and_hazards.md rule R481). -/
def hardReset (s : State) : Host.Outcome State Fault Refusal := logicReset { s with mem := resetArena s.params }

/-- `SoftReset()` (70_reset_and_hazards.md rule R482). -/
def softReset (s : State) : Host.Outcome State Fault Refusal := logicReset s

end Sys2Proof.Machine
end

