-- ==== Sys2Proof/Machine/Command.lean ====
section
/-! DEFINITION. Where the next input comes from, fetching and running a command, and serving an input (00_scope.md rule
R14; 42_command_processor.md rule R222; 70_reset_and_hazards.md rule R497). -/

namespace Sys2Proof.Machine

/-- The input a step takes: the first listed one, or the environment's free choice (assumption log 1). -/
def State.nextInput (s : State) : Input :=
  match s.sched with
  | i :: _ => i
  | [] => Config.envChoice s.tick

/-- The state with that input taken and nothing handed back yet. -/
def State.takeInput (s : State) : State :=
  match s.sched with
  | _ :: rest => { s with sched := rest, result := .nothing }
  | [] => { s with tick := s.tick + 1, result := .nothing }

/-- The state with an input put at the head of the list. -/
def State.pushInput (s : State) (i : Input) : State := { s with sched := i :: s.sched }

/-- The state with what is left of a grant of command steps put at the head of the list. -/
def State.keepGrant (s : State) : Nat → State
  | 0 => s
  | n + 1 => s.pushInput (.commands (n + 1))

/-- Word `k` of the command table at `cmdAddr` (30_encoding.md rule R111, 20_memory.md rule R92). -/
def State.commandWord (s : State) (k : Nat) : Word := s.mem.read16 .vram1 (s.ctx.cmdAddr.toNat + 2 * k)

/-- The command table at `cmdAddr`. A step that reads only some of its words reads the others to no effect: a fetch
has none (20_memory.md rule R92). -/
def State.fetchTable (s : State) : CmdTable :=
  { ctrl := s.commandWord 0
    link := s.commandWord 1
    pmod := s.commandWord 2
    colr := s.commandWord 3
    srca := s.commandWord 4
    size := s.commandWord 5
    xa := s.commandWord 6
    ya := s.commandWord 7
    xb := s.commandWord 8
    yb := s.commandWord 9
    xc := s.commandWord 10
    yc := s.commandWord 11
    xd := s.commandWord 12
    yd := s.commandWord 13
    grda := s.commandWord 14
    unused := s.commandWord 15 }

/-- The command at `cmdAddr`. -/
def State.fetchCommand (s : State) : Command := decode s.fetchTable

/-- Bytes written one after another from an offset. -/
def Arena.writeBytes (m : Arena) (id : MemId) : Nat → List Byte → Arena
  | _, [] => m
  | a, b :: rest => (m.write8 id a b).writeBytes id (a + 1) rest

/-- Bytes placed at `cmdAddr` and one command step granted while `Running` (assumption log 2). -/
def State.placeCommand (s : State) (bytes : List Byte) : State :=
  { s with
    mem := s.mem.writeBytes .vram1 s.ctx.cmdAddr.toNat bytes
    ctx := { s.ctx with rendering := true } }.pushInput (.commands 1)

/-! ### Running a command and serving an input -/

/-- A command run: its operation, then its jump mode (42_command_processor.md rule R222). -/
def runCommand (c : Command) (s : State) : Host.Outcome State Fault Refusal :=
  andThen (exec c.op s) fun s1 =>
    match c.jump with
    | none => .next s1
    | some j => exec j s1

/-- `CommandStep()` (42_command_processor.md rule R222). -/
def commandStep (s : State) : Host.Outcome State Fault Refusal := runCommand s.fetchCommand s

/-- `ProcessCommands(count)`: nothing while `Idle`; otherwise one command step, the rest of the grant staying at the
head of the inputs so that no other step comes between (42_command_processor.md rule R222; assumption log 20). -/
def processCommands (count : Nat) (s : State) : Host.Outcome State Fault Refusal :=
  match count with
  | 0 => .next s
  | n + 1 => if s.ctx.rendering then commandStep (s.keepGrant n) else .next s

/-- Serve one input. -/
def serve (i : Input) (s : State) : Host.Outcome State Fault Refusal :=
  match i with
  | .busRead r a w => .next (busRead s r a w)
  | .busWrite r a w v => .next (busWrite s r a w v)
  | .phaseEvent .normal => phaseEvent s
  | .phaseEvent .debug => phaseEvent s
  | .commands n => processCommands n s
  | .hardReset => hardReset s
  | .softReset => softReset s
  | .dump r => .next (dump s r)

end Sys2Proof.Machine
end

