-- ==== Sys2Proof/Machine/Step.lean ====
section
/-! DEFINITION. One step of the machine: an input of the environment taken and served (00_scope.md rule R14). -/

namespace Sys2Proof.Machine

/-- One step. -/
def step (s : State) : Host.Outcome State Fault Refusal := serve s.nextInput s.takeInput

/-- The state with an instruction's words placed where the next step fetches them, that step being one command step
(assumption log 2). -/
def State.withFetchWord (s : State) (nbits w : Nat) : State := s.placeCommand (tableWordBytes nbits w)

end Sys2Proof.Machine
end

