-- ==== Sys2Proof/Safety.lean ====
section
/-! DEFINITION. What claims about runs are stated in: the properties of a legal state, runs of several steps, and the
readings of memory that claims use. -/

namespace Sys2Proof.Machine

/-! ### Legal states -/

/-- The command address and the saved return address are multiples of 8 (10_state.md rule R31). -/
def State.addressesAligned (s : State) : Prop := s.ctx.cmdAddr.toNat % 8 = 0 ∧ s.ctx.retAddr.toNat % 8 = 0

/-- While the list runs the frame is not marked complete (10_state.md rule R32). -/
def State.marksExclusive (s : State) : Prop := s.ctx.rendering = true → s.reg1.cef = 0#1

/-- A resolution change is pending exactly when the requested resolution is not the one in force (30_encoding.md rule
R146, 43_display_timing.md rule R294). -/
def State.requestTracked (s : State) : Prop := s.timing.resPending = resolutionPending s.cfg2 s.timing

/-- The line counter lies in the range of the vertical phase, and `periphDone` marks the last displayed line
(43_display_timing.md rules R286, R291, R295, R298). In `VTopBorder` the table in force may have changed, and no range
is claimed. -/
def State.lineInRange (s : State) : Prop :=
  match s.timing.vphase with
  | .active =>
    s.timing.vcnt < s.vt.bottomBorder ∧
      (s.timing.periphDone = true ↔ s.vt.bottomBorder ≤ s.timing.vcnt + Config.periphLeadLines)
  | .bottomBorder => s.vt.bottomBorder ≤ s.timing.vcnt ∧ s.timing.vcnt < s.vt.blankingAndSync
  | .blankingAndSync => s.vt.blankingAndSync ≤ s.timing.vcnt ∧ s.timing.vcnt < s.vt.topBorder
  | .topBorder => True
  | .lastLine => s.vt.lastLine ≤ s.timing.vcnt

/-- The output frame has the size of the resolution in force, and every row written lies in it and has its width
(10_state.md rule R70, 43_display_timing.md rule R295). -/
def State.frameSized (s : State) : Prop :=
  s.outFrame.width = s.timing.outW ∧ s.outFrame.height = s.timing.outH ∧
    ∀ row ∈ s.outFrame.rows, row.1 < s.timing.outH ∧ row.2.length = s.timing.outW

/-- Every line buffer has `MAX_OUT_W` entries (10_state.md rule R67). -/
def LineBuffers.sized (b : LineBuffers) : Prop :=
  (∀ L, (b.layer.get L).length = Config.maxOutW) ∧ b.spr.length = Config.maxOutW ∧
    (∀ L, (b.win.get L).length = Config.maxOutW) ∧ b.winCC.length = Config.maxOutW ∧
    b.winRP.length = Config.maxOutW ∧ b.rotCoord1.length = Config.maxOutW ∧ b.rotCoord2.length = Config.maxOutW

/-- The states every step keeps. -/
structure State.Legal (s : State) : Prop where
  params : paramsValid s.params = true
  memory : s.mem.wf = true
  config : s.cfg2.wf = true
  aligned : s.addressesAligned
  marks : s.marksExclusive
  request : s.requestTracked
  line : s.lineInRange
  frame : s.frameSized
  buffers : s.buf.sized

/-! ### Admitted configurations -/

/-- Nothing the spec refuses is configured: the sprite mode is admitted, and so are the backgrounds while the display
is on (93_implementation_defined.md U6, U7). -/
def State.admitted (s : State) : Bool := s.spriteAdmitted && (!s.cfg2.disp || s.cfg2.backgroundAdmitted)

/-! ### Runs -/

/-- `n` steps, stopping at the first fault or refusal. -/
def steps : Nat → State → Host.Outcome State Fault Refusal
  | 0, s => .next s
  | n + 1, s => andThen (step s) (steps n)

/-! ### Readings -/

/-- The 0x20 bytes of the command at `cmdAddr`. -/
def State.commandBytes (s : State) : List Byte :=
  (List.range 0x20).map fun k => s.mem.read8 .vram1 (s.ctx.cmdAddr.toNat + k)

/-- The pixel at a position of a framebuffer (30_encoding.md rule R125). -/
def Arena.pixel (m : Arena) (buffer : MemId) (x y : Nat) : Word := m.read16 buffer (fbOff x y)

/-- A position lies in the 512 by 256 pixels of a framebuffer (30_encoding.md rule R125). -/
def onScreen (x y : Nat) : Prop := x < 512 ∧ y < 256

/-- A pixel lies in a rectangle (41_framebuffer.md rule R203). -/
def Rect.contains (r : Rect) (x y : Nat) : Prop := r.xs ≤ x ∧ x < r.xe ∧ r.ys ≤ y ∧ y ≤ r.ye

/-- The value of the last of some word writes to an offset, if one is to it (42_command_processor.md rule R261). -/
def lastWrite (ws : List (Nat × Word)) (o : Nat) : Option Word :=
  (ws.reverse.find? fun w => w.1 == o).map Prod.snd

/-- No word write touches a byte offset. -/
def untouched (ws : List (Nat × Word)) (a : Nat) : Prop := ∀ w ∈ ws, a ≠ w.1 ∧ a ≠ w.1 + 1

/-- What the line from `c1` to `c2` plots at its point `p` when the one before it is `prev`: the companion, at the major
coordinate of `p` and the minor coordinate of `prev`, exactly when the minor coordinate changed, and then `p`, both with
one value; X is the major axis when `|dy| <= |dx|` (40_rasterizer.md rules R162, R167, R168; 42_command_processor.md rule
R235). -/
def companionThenPoint (c1 c2 prev p : Coord) (v : Word) : List Plot :=
  if (c2.y - c1.y).natAbs ≤ (c2.x - c1.x).natAbs then
    if p.y = prev.y then [⟨p.x, p.y, v⟩] else [⟨p.x, prev.y, v⟩, ⟨p.x, p.y, v⟩]
  else if p.x = prev.x then [⟨p.x, p.y, v⟩]
  else [⟨prev.x, p.y, v⟩, ⟨p.x, p.y, v⟩]

/-- Two arenas read the same at every byte of every memory. -/
def Arena.sameBytes (m n : Arena) : Prop := ∀ id a, n.read8 id a = m.read8 id a

/-- The draw commands (42_command_processor.md rule R231). -/
def drawsPixels : Instr → Bool
  | .nspr .. => true
  | .sspr .. => true
  | .dspr .. => true
  | .poly .. => true
  | .plin .. => true
  | .line .. => true
  | _ => false

/-- The PMOD word of a draw command; 0 for any other instruction. -/
def pmodOf : Instr → Word
  | .nspr d _ _ => d.pmod
  | .sspr d _ _ _ _ _ => d.pmod
  | .dspr d _ _ _ _ _ => d.pmod
  | .poly d _ _ _ _ => d.pmod
  | .plin d _ _ _ _ => d.pmod
  | .line d _ _ => d.pmod
  | _ => 0

/-- A draw command with another PMOD word; any other instruction as it is. -/
def withPmod (pmod : Word) : Instr → Instr
  | .nspr d t va => .nspr { d with pmod := pmod } t va
  | .sspr d t zp va vb vc => .sspr { d with pmod := pmod } t zp va vb vc
  | .dspr d t va vb vc vd => .dspr { d with pmod := pmod } t va vb vc vd
  | .poly d va vb vc vd => .poly { d with pmod := pmod } va vb vc vd
  | .plin d va vb vc vd => .plin { d with pmod := pmod } va vb vc vd
  | .line d va vb => .line { d with pmod := pmod } va vb
  | i => i

/-- The records a draw command logs, in order: one when a PMOD bit is not admitted, one more for a textured command of
colour mode 6 or 7 (42_command_processor.md rules R231, R236; 60_exceptions.md rule R454). -/
def drawRecords (textured : Bool) (pmod : Word) (s : State) : List DiagRecord :=
  (if pmodUnadmitted pmod then [.unhandledCommand s.ctx.cmdAddr s.ctrlAtCmd pmod] else []) ++
    (if textured && decide (6 ≤ pmodCM pmod) then [.unhandledCommand s.ctx.cmdAddr s.ctrlAtCmd pmod] else [])

/-- A draw command's effect given the plots it makes: it is counted, its records are logged, every pixel of the draw
buffer is the last value plotted on it or the old one, every other byte of every memory is kept, and nothing else
changes (42_command_processor.md rules R231, R233, R261). -/
def State.drewOnly (s t : State) (records : List DiagRecord) (ws : List (Nat × Word)) : Prop :=
  t = { s with mem := t.mem, ctx := { s.ctx with drawCalls := s.ctx.drawCalls + 1 }, diag := s.diag ++ records } ∧
    (∀ x y, onScreen x y →
      t.mem.pixel s.drawBuffer x y = (lastWrite ws (fbOff x y)).getD (s.mem.pixel s.drawBuffer x y)) ∧
    (∀ a, a < Config.fbBytes → untouched ws a → t.mem.read8 s.drawBuffer a = s.mem.read8 s.drawBuffer a) ∧
    ∀ id a, id ≠ s.drawBuffer → t.mem.read8 id a = s.mem.read8 id a

end Sys2Proof.Machine
end

