-- ==== Sys2Proof/Certificates/Slice0/Obligations.lean ====
section
/-! DEFINITION. The statements for the provers. Each docstring names the rules of spec/ its statement rests on. -/

open Sys2Proof Sys2Proof.Machine

/-! ### Encoding -/

/-- The bytes of a well-formed command decode to it, whatever follows them, with every operand at every value
(30_encoding.md rules R111 to R123). -/
def Obligations.DecodeOfEncodedBytesIsTheCommand : Prop :=
  ∀ (c : Command) (rest : List Byte), c.wellFormed = true →
    decodeBytes ((encode c).bytes ++ rest) = .ok (c, rest)

/-- Every table of sixteen words is a well-formed command, and its control word matches the opcode-table row of its
operation and of its jump mode (42_command_processor.md rule R259, spec/opcode_table.json). -/
def Obligations.EveryTableIsACommandOfItsRows : Prop :=
  ∀ t : CmdTable, (decode t).wellFormed = true ∧
    t.ctrl &&& rowMask (decode t).op = rowMatch (decode t).op ∧
    ∀ j, (decode t).jump = some j → t.ctrl &&& rowMask j = rowMatch j

/-- No control word matches the rows of two operations, nor of two jump modes; the one pair of rows with one pattern is
that of Assign and of Assign with a LINK of 0, which LINK tells apart (spec/opcode_table.json). -/
def Obligations.RowsNeverOverlap : Prop :=
  ∀ (w : Word) (i j : Instr), i.isJump = j.isJump → w &&& rowMask i = rowMatch i → w &&& rowMask j = rowMatch j →
    i.row = j.row ∨ (i.row = 19 ∧ j.row = 20) ∨ (i.row = 20 ∧ j.row = 19)

/-- The bits the encoding rules call ignored. Of a table: CTRL[7:6], bits 15:13 of each coordinate word by itself, the
word at 0x1E. Of PMOD: bits 15:11, 8:7 and 1:0 change nothing of a command but its diagnostic records, and 14:13, 11
and 7 do not change how many of these there are (30_encoding.md rules R112, R115, R117, R121). -/
def Obligations.IgnoredBitsChangeNothing : Prop :=
  (∀ (t : CmdTable) (m mxa mya mxb myb mxc myc mxd myd w : Word),
    decode
      { t with
        ctrl := t.ctrl ^^^ (m &&& 0x00C0)
        xa := t.xa ^^^ (mxa &&& 0xE000), ya := t.ya ^^^ (mya &&& 0xE000)
        xb := t.xb ^^^ (mxb &&& 0xE000), yb := t.yb ^^^ (myb &&& 0xE000)
        xc := t.xc ^^^ (mxc &&& 0xE000), yc := t.yc ^^^ (myc &&& 0xE000)
        xd := t.xd ^^^ (mxd &&& 0xE000), yd := t.yd ^^^ (myd &&& 0xE000)
        unused := w } = decode t) ∧
  ∀ (i : Instr) (m : Word) (s u : State), exec i s = .next u →
    (∃ v, exec (withPmod (pmodOf i ^^^ (m &&& 0xF983)) i) s = .next v ∧ v = { u with diag := v.diag }) ∧
    ∃ v, exec (withPmod (pmodOf i ^^^ (m &&& 0x6880)) i) s = .next v ∧ v = { u with diag := v.diag } ∧
      v.diag.length = u.diag.length

/-- Words written out from the encodings decode to what they stand for (30_encoding.md rules R112 to R114, and the
listings P2 and P4 of 95_test_vectors.md). -/
def Obligations.ListedWordsDecode : Prop :=
  decode { CmdTable.zero with ctrl := 0x8000 } = { op := .endList, jump := none } ∧
  decode { CmdTable.zero with ctrl := 0x200A, link := 0x0020, xa := 0x000A, ya := 0x0014 } =
    { op := .lcoord ⟨10, 20⟩, jump := some (.jumpCall 0x0020) } ∧
  decode { CmdTable.zero with ctrl := 0x3006, colr := 0x8001, xb := 0x0003 } =
    { op := .line ⟨0, 0x8001, 0⟩ ⟨0, 0⟩ ⟨3, 0⟩, jump := some .jumpReturn } ∧
  decode { CmdTable.zero with ctrl := 0x0008, xa := 4, xc := 5, yc := 7 } =
    { op := .uclip ⟨4, 0⟩ ⟨5, 7⟩, jump := some .jumpNext } ∧
  decode { CmdTable.zero with ctrl := 0x5000 } = { op := .skip, jump := some .jumpAssignZero }

/-! ### Steps -/

/-- A step serves the first listed input; with none listed it serves the environment's free choice (00_scope.md rule
R14, 70_reset_and_hazards.md rule R497; the list and the choice are the model's, assumption log 1). What each input
does: a bus write of a width stores the low bits of its value by that width (20_memory.md rules R87, R91), both handlers
of a phase event are one function (43_display_timing.md rule R281), a grant of 0 command steps does nothing
(42_command_processor.md rule R222); a read, a dump and the resets are those of the other statements. -/
def Obligations.StepServesTheNextInput : Prop :=
  (∀ (s : State) (i : Input) (rest : List Input), s.sched = i :: rest →
    step s = serve i { s with sched := rest, result := .nothing }) ∧
  (∀ s : State, s.sched = [] →
    step s = serve (Config.envChoice s.tick) { s with tick := s.tick + 1, result := .nothing }) ∧
  (∀ (s : State) (r : Region) (a : Nat) (v : Long),
    serve (.busWrite r a .byte v) s = .next (memWrite8 s r a (BitVec.ofNat 8 (v.toNat % 2 ^ 8))) ∧
    serve (.busWrite r a .word v) s = .next (memWrite16 s r a (BitVec.ofNat 16 (v.toNat % 2 ^ 16))) ∧
    serve (.busWrite r a .long v) s = .next (memWrite32 s r a v)) ∧
  (∀ (s : State) (h : Handler), serve (.phaseEvent h) s = phaseEvent s) ∧
  ∀ s : State,
    serve (.commands 0) s = .next s ∧
    (∀ r a w, serve (.busRead r a w) s = .next (busRead s r a w)) ∧
    (∀ r, serve (.dump r) s = .next (dump s r)) ∧
    serve .hardReset s = hardReset s ∧
    serve .softReset s = softReset s

/-- A grant of command steps does nothing while `Idle`; while `Running` the bytes at `cmdAddr` are decoded and the
command's operation and then its jump mode run, the rest of the grant staying first (42_command_processor.md rule
R222). -/
def Obligations.GrantRunsTheCommandAtCmdAddr : Prop :=
  ∀ (s : State) (n : Nat) (rest : List Input), s.sched = .commands (n + 1) :: rest →
    (s.ctx.rendering = false → step s = .next { s with sched := rest, result := .nothing }) ∧
    (s.ctx.rendering = true → ∀ (c : Command) (more : List Byte), decodeBytes s.commandBytes = .ok (c, more) →
      step s =
        andThen (exec c.op { s with sched := if n = 0 then rest else .commands n :: rest, result := .nothing }) fun u =>
          match c.jump with
          | none => .next u
          | some j => exec j u)

/-! ### Control words and jump modes -/

/-- `END`: whatever else its words hold, no opcode and no jump mode runs; the processor is `Idle`, the frame is marked
complete, the draw-end trigger and the draw-call counters are reported, and nothing else changes
(42_command_processor.md rules R223, R224). -/
def Obligations.EndBitEndsTheFrame : Prop :=
  (∀ t : CmdTable, t.ctrl.getLsbD 15 = true → decode t = { op := .endList, jump := none }) ∧
  ∀ s : State, s.spriteAdmitted = true →
    exec .endList s =
      .next
        { s with
          ctx := { s.ctx with rendering := false }
          reg1 := { s.reg1 with cef := 1 }
          out := s.out ++ [.trigger .spriteDrawEnd, .drawCallCounters s.ctx.drawCalls] }

/-- `SKIP`: whatever its opcode, nothing is executed and the jump mode acts in full (42_command_processor.md rule
R225). -/
def Obligations.SkipBitExecutesNothing : Prop :=
  (∀ t : CmdTable, t.ctrl.getLsbD 15 = false → t.ctrl.getLsbD 14 = true →
    decode t = { op := .skip, jump := some (decodeJumpMode t) }) ∧
  ∀ s : State, s.spriteAdmitted = true → exec .skip s = .next s

/-- `UNREC`: a record of category E2 with the address and control word of the command and a PMOD of 0, and nothing else
(42_command_processor.md rule R258, 60_exceptions.md rule R451). -/
def Obligations.UnrecognizedOpcodesOnlyLog : Prop :=
  ∀ i ∈ [Instr.unrec3, .unrec7, .unrecB, .unrecC, .unrecD, .unrecE, .unrecF], ∀ s : State, s.spriteAdmitted = true →
    exec i s =
      .next
        { s with
          diag := s.diag ++ [.unhandledCommand s.ctx.cmdAddr (s.mem.read16 .vram1 s.ctx.cmdAddr.toNat) 0] }

/-- `UCLIP` and `SCLIP`: the clip fields become the low bits of the operand words. `LCOORD`: the local origin becomes
the low 13 bits of XA and YA, replacing the old one. Nothing else changes (42_command_processor.md rules R252, R254,
R256). -/
def Obligations.ContextCommandsSetTheirFields : Prop :=
  (∀ t : CmdTable, t.ctrl &&& 0xC00F = 0x0008 →
    (decode t).op =
      .uclip ⟨t.xa.extractLsb' 0 10, t.ya.extractLsb' 0 9⟩ ⟨t.xc.extractLsb' 0 10, t.yc.extractLsb' 0 9⟩) ∧
  (∀ t : CmdTable, t.ctrl &&& 0xC00F = 0x0009 →
    (decode t).op = .sclip ⟨t.xc.extractLsb' 0 10, t.yc.extractLsb' 0 9⟩) ∧
  (∀ (p q : ClipCorner) (s : State), s.spriteAdmitted = true →
    exec (.uclip p q) s =
      .next
        { s with
          ctx :=
            { s.ctx with userClipX0 := p.x, userClipY0 := p.y, userClipX1 := q.x, userClipY1 := q.y } }) ∧
  (∀ (q : ClipCorner) (s : State), s.spriteAdmitted = true →
    exec (.sclip q) s = .next { s with ctx := { s.ctx with sysClipH := q.x, sysClipV := q.y } }) ∧
  (∀ t : CmdTable, t.ctrl &&& 0xC00F = 0x000A →
    (decode t).op = .lcoord ⟨t.xa.extractLsb' 0 13, t.ya.extractLsb' 0 13⟩) ∧
  ∀ (va : Vertex) (s : State), s.spriteAdmitted = true →
    exec (.lcoord va) s = .next { s with ctx := { s.ctx with localX := va.x, localY := va.y } }

/-- `Next`: `cmdAddr` becomes `(c + 0x20) mod 0x80000`. `Call`: the address after the command is saved unless one is
saved already, and the target `(LINK << 3) mod 0x80000` is taken, 0 included. `Return`: to the saved address, which is
then no longer saved; without one, as `Next`. Nothing else changes (42_command_processor.md rules
R226, R228, R230). -/
def Obligations.NextCallAndReturnMoveTheAddress : Prop :=
  (∀ t : CmdTable, t.ctrl.getLsbD 15 = false →
    (t.ctrl.extractLsb' 12 2 = 0 → (decode t).jump = some .jumpNext) ∧
    (t.ctrl.extractLsb' 12 2 = 2 → (decode t).jump = some (.jumpCall t.link)) ∧
    (t.ctrl.extractLsb' 12 2 = 3 → (decode t).jump = some .jumpReturn)) ∧
  (∀ s : State,
    exec .jumpNext s =
      .next { s with ctx := { s.ctx with cmdAddr := BitVec.ofNat 19 ((s.ctx.cmdAddr.toNat + 0x20) % 0x80000) } }) ∧
  (∀ (link : Word) (s : State),
    (s.ctx.retValid = false →
      exec (.jumpCall link) s =
        .next
          { s with
            ctx :=
              { s.ctx with
                retValid := true
                retAddr := BitVec.ofNat 19 ((s.ctx.cmdAddr.toNat + 0x20) % 0x80000)
                cmdAddr := BitVec.ofNat 19 ((link.toNat * 8) % 0x80000) } }) ∧
    (s.ctx.retValid = true →
      exec (.jumpCall link) s =
        .next { s with ctx := { s.ctx with cmdAddr := BitVec.ofNat 19 ((link.toNat * 8) % 0x80000) } })) ∧
  ∀ s : State,
    (s.ctx.retValid = true →
      exec .jumpReturn s = .next { s with ctx := { s.ctx with cmdAddr := s.ctx.retAddr, retValid := false } }) ∧
    (s.ctx.retValid = false →
      exec .jumpReturn s =
        .next { s with ctx := { s.ctx with cmdAddr := BitVec.ofNat 19 ((s.ctx.cmdAddr.toNat + 0x20) % 0x80000) } })

/-- `Assign`: the target `(LINK << 3) mod 0x80000` when it is not 0, with `retValid` and `retAddr` kept. A target of 0
is the loop guard: a record of category E3, then the end of the frame as by the end bit, with `cmdAddr` kept
(42_command_processor.md rules R227, R229). -/
def Obligations.AssignJumpsOrEndsTheFrame : Prop :=
  (∀ t : CmdTable, t.ctrl.getLsbD 15 = false → t.ctrl.extractLsb' 12 2 = 1 →
    (t.link = 0 → (decode t).jump = some .jumpAssignZero) ∧
    (t.link ≠ 0 → (decode t).jump = some (.jumpAssign t.link))) ∧
  (∀ (link : Word) (s : State),
    ((link.toNat * 8) % 0x80000 ≠ 0 →
      exec (.jumpAssign link) s =
        .next { s with ctx := { s.ctx with cmdAddr := BitVec.ofNat 19 ((link.toNat * 8) % 0x80000) } }) ∧
    ((link.toNat * 8) % 0x80000 = 0 → exec (.jumpAssign link) s = exec .jumpAssignZero s)) ∧
  ∀ s : State,
    exec .jumpAssignZero s =
      .next
        { s with
          ctx := { s.ctx with rendering := false }
          reg1 := { s.reg1 with cef := 1 }
          diag := s.diag ++ [.malformedJump s.ctx.cmdAddr]
          out := s.out ++ [.trigger .spriteDrawEnd, .drawCallCounters s.ctx.drawCalls] }

/-! ### Draw commands -/

/-- What a textured quad plots: row by row, each row a line that reads one texture row, the texel of each of its points
plotted there with its companion unless it is transparent; nothing without rows or columns. The textured commands
complete: NSPR with the corners of an unscaled sprite, SSPR with those of its zoom point, DSPR with its vertices. Each
draws the plots of its textured quad unless its bounding box is rejected, or none in colour modes 6 and 7, logs what its
PMOD calls for, counts, and changes nothing else (42_command_processor.md rules R231, R234, R236, R238, R240, R242,
R244; 40_rasterizer.md rules R172, R173, R178). That the command completes with GOUR set is the model's choice
(assumption log 4), and so are the control word of its records (log 14) and the shading of a companion pixel (log
18). -/
def Obligations.TexturedCommandsDrawTheirQuad : Prop :=
  (∀ (m : Arena) (d : DrawOps) (x : Texture) (row n : Nat) (hflip : Bool) (l r : Coord) (v : Int),
    let dmaj := max (r.x - l.x).natAbs (r.y - l.y).natAbs
    let P (k : Nat) : Coord := (linePoints l r).getD k l
    texRowPlots m d x row n hflip l r v =
      if x.width = 0 then []
      else
        (List.range (dmaj + 1)).flatMap fun k =>
          let i := k * (x.width * 0x10000 / (dmaj + 1)) / 0x10000
          let texel := fetchTexel m x (if hflip then (x.width : Int) - 1 - i else i) v
          if texel.transparent d.pmod then []
          else companionThenPoint l r (P (k - 1)) (P k) (shade m d row n k dmaj texel.value)) ∧
  (∀ (m : Arena) (d : DrawOps) (x : Texture) (hflip vflip : Bool) (q : Corners),
    let span (p r : Coord) : Nat := max (r.x - p.x).natAbs (r.y - p.y).natAbs
    let n := max (span q.a q.d) (span q.b q.c)
    texQuadPlots m d x hflip vflip q =
      if x.height = 0 then []
      else
        (List.range (n + 1)).flatMap fun j =>
          let row := (quadRows q.a q.b q.c q.d).getD j (q.a, q.b)
          let i := j * (x.height * 0x10000 / (n + 1)) / 0x10000
          texRowPlots m d x j n hflip row.1 row.2 (if vflip then (x.height : Int) - 1 - i else i)) ∧
  (∀ (d : DrawOps) (t : TexOps) (q : Corners) (s : State),
    texturedPlots d t q s =
      if s.ctx.rejects d.pmod [q.a, q.b, q.c, q.d] then []
      else
        texQuadPlots s.mem d
          { base := t.srca.toNat * 8, width := t.width.toNat, height := t.height.toNat, mode := d.pmod.toNat / 8 % 8,
            bank := d.colr }
          t.hflip t.vflip q) ∧
  ∀ (d : DrawOps) (t : TexOps) (s : State), s.spriteAdmitted = true →
    (∀ va : Vertex, ∃ u, exec (.nspr d t va) s = .next u ∧
      s.drewOnly u (drawRecords true d.pmod s)
        (if 6 ≤ pmodCM d.pmod then []
        else
          s.writesOf d.pmod
            (texturedPlots d t
              { a := s.position va
                b := ⟨(s.position va).x + t.width.toNat - 1, (s.position va).y⟩
                c := ⟨(s.position va).x + t.width.toNat - 1, (s.position va).y + t.height.toNat - 1⟩
                d := ⟨(s.position va).x, (s.position va).y + t.height.toNat - 1⟩ } s))) ∧
    (∀ (zp : BitVec 4) (va vb vc : Vertex), ∃ u, exec (.sspr d t zp va vb vc) s = .next u ∧
      s.drewOnly u (drawRecords true d.pmod s)
        (if 6 ≤ pmodCM d.pmod then []
        else
          let z := zp.toNat
          let x0 : Int :=
            if z ≠ 0 ∧ z % 4 = 2 then va.x.toInt - vb.x.toInt / 2
            else if z ≠ 0 ∧ z % 4 = 3 then va.x.toInt - vb.x.toInt
            else va.x.toInt
          let x1 : Int :=
            if z = 0 then vc.x.toInt
            else if z % 4 = 2 then va.x.toInt + (vb.x.toInt + 1) / 2
            else if z % 4 = 3 then va.x.toInt
            else va.x.toInt + vb.x.toInt
          let y0 : Int :=
            if z ≠ 0 ∧ z / 4 = 2 then va.y.toInt - vb.y.toInt / 2
            else if z ≠ 0 ∧ z / 4 = 3 then va.y.toInt - vb.y.toInt
            else va.y.toInt
          let y1 : Int :=
            if z = 0 then vc.y.toInt
            else if z / 4 = 2 then va.y.toInt + (vb.y.toInt + 1) / 2
            else if z / 4 = 3 then va.y.toInt
            else va.y.toInt + vb.y.toInt
          let lx := s.ctx.localX.toInt
          let ly := s.ctx.localY.toInt
          s.writesOf d.pmod
            (texturedPlots d t
              ⟨⟨x0 + lx, y0 + ly⟩, ⟨x1 + lx, y0 + ly⟩, ⟨x1 + lx, y1 + ly⟩, ⟨x0 + lx, y1 + ly⟩⟩ s))) ∧
    ∀ va vb vc vd : Vertex, ∃ u, exec (.dspr d t va vb vc vd) s = .next u ∧
      s.drewOnly u (drawRecords true d.pmod s)
        (if 6 ≤ pmodCM d.pmod then []
        else
          s.writesOf d.pmod
            (texturedPlots d t ⟨s.position va, s.position vb, s.position vc, s.position vd⟩ s))

/-- What a line plots: for each of its points in order the companion, at the major coordinate of the point and the minor
coordinate of the one before it, exactly when the minor coordinate changed, and then the point, both with COLR, or with
what the Gouraud function makes of it when GOUR is set; a quad plots that for each of its rows. The untextured commands
complete: POLY draws the rows of its quad, PLIN its four sides in order, LINE its line, unless the bounding box is
rejected; each logs what its PMOD calls for, counts, and changes nothing else (42_command_processor.md rules R231, R234,
R235, R237, R238, R246, R248, R250; 40_rasterizer.md rules R167, R168). That the command completes with GOUR set is the
model's choice (assumption log 4), and so are the control word of its records (log 14) and the shading of a companion
pixel (log 18). -/
def Obligations.UntexturedCommandsDrawTheirLines : Prop :=
  (∀ (m : Arena) (d : DrawOps) (row n k dmaj : Nat) (v : Word),
    let g := d.grda.toNat * 8
    shade m d row n k dmaj v =
      if d.pmod.getLsbD 2 then
        Config.gouraud
          { a := m.read16 .vram1 g, b := m.read16 .vram1 (g + 2), c := m.read16 .vram1 (g + 4),
            d := m.read16 .vram1 (g + 6) }
          row n k dmaj v
      else v) ∧
  (∀ (m : Arena) (d : DrawOps) (row n : Nat) (c1 c2 : Coord),
    let dmaj := max (c2.x - c1.x).natAbs (c2.y - c1.y).natAbs
    let P (k : Nat) : Coord := (linePoints c1 c2).getD k c1
    linePlots m d row n c1 c2 =
      (List.range (dmaj + 1)).flatMap fun k =>
        companionThenPoint c1 c2 (P (k - 1)) (P k) (shade m d row n k dmaj d.colr)) ∧
  (∀ (m : Arena) (d : DrawOps) (q : Corners),
    let span (p r : Coord) : Nat := max (r.x - p.x).natAbs (r.y - p.y).natAbs
    let n := max (span q.a q.d) (span q.b q.c)
    quadPlots m d q =
      (List.range (n + 1)).flatMap fun j =>
        let row := (quadRows q.a q.b q.c q.d).getD j (q.a, q.b)
        linePlots m d j n row.1 row.2) ∧
  ∀ (d : DrawOps) (s : State), s.spriteAdmitted = true →
    (∀ va vb vc vd : Vertex, ∃ u, exec (.poly d va vb vc vd) s = .next u ∧
      s.drewOnly u (drawRecords false d.pmod s)
        (if s.ctx.rejects d.pmod [s.position va, s.position vb, s.position vc, s.position vd] then []
        else s.writesOf d.pmod (quadPlots s.mem d ⟨s.position va, s.position vb, s.position vc, s.position vd⟩))) ∧
    (∀ va vb vc vd : Vertex, ∃ u, exec (.plin d va vb vc vd) s = .next u ∧
      s.drewOnly u (drawRecords false d.pmod s)
        (if s.ctx.rejects d.pmod [s.position va, s.position vb, s.position vc, s.position vd] then []
        else
          s.writesOf d.pmod (linePlots s.mem d 0 0 (s.position va) (s.position vb)) ++
            s.writesOf d.pmod (linePlots s.mem d 0 0 (s.position vb) (s.position vc)) ++
            s.writesOf d.pmod (linePlots s.mem d 0 0 (s.position vc) (s.position vd)) ++
            s.writesOf d.pmod (linePlots s.mem d 0 0 (s.position vd) (s.position va)))) ∧
    ∀ va vb : Vertex, ∃ u, exec (.line d va vb) s = .next u ∧
      s.drewOnly u (drawRecords false d.pmod s)
        (if s.ctx.rejects d.pmod [s.position va, s.position vb] then []
        else s.writesOf d.pmod (linePlots s.mem d 0 0 (s.position va) (s.position vb)))

/-- With GOUR clear, a pixel changed by an untextured command holds COLR (42_command_processor.md rules R235, R246,
R248, R250). -/
def Obligations.UntexturedPixelsTakeTheColour : Prop :=
  ∀ (d : DrawOps) (s t : State) (i : Instr) (x y : Nat), pmodGour d.pmod = false →
    ((∃ va vb vc vd, i = .poly d va vb vc vd) ∨ (∃ va vb vc vd, i = .plin d va vb vc vd) ∨ ∃ va vb, i = .line d va vb) →
    exec i s = .next t → onScreen x y →
      t.mem.pixel s.drawBuffer x y = d.colr ∨ t.mem.pixel s.drawBuffer x y = s.mem.pixel s.drawBuffer x y

/-- With the system clip inside the framebuffer, a draw command changes only pixels that pass the clip tests: the system
clip, and with CLIP set the inside or the outside of the user clip (42_command_processor.md rule R233). -/
def Obligations.DrawsOnlyInsideTheClip : Prop :=
  ∀ (i : Instr) (s t : State) (x y : Nat), drawsPixels i = true → s.ctx.sysClipH.toNat ≤ 511 →
    s.ctx.sysClipV.toNat ≤ 255 → exec i s = .next t → onScreen x y →
    t.mem.pixel s.drawBuffer x y ≠ s.mem.pixel s.drawBuffer x y →
      x ≤ s.ctx.sysClipH.toNat ∧ y ≤ s.ctx.sysClipV.toNat ∧
        ((pmodOf i).getLsbD 10 = true →
          ((pmodOf i).getLsbD 9 = false ↔
            s.ctx.userClipX0.toNat ≤ x ∧ x ≤ s.ctx.userClipX1.toNat ∧ s.ctx.userClipY0.toNat ≤ y ∧
              y ≤ s.ctx.userClipY1.toNat))

/-- A texel in the six colour modes: its raw value from the packed rows of the texture, the pixel value from it and the
colour bank or the lookup table, and whether it is transparent (30_encoding.md rule R124). A normal sprite is drawn
unscaled: pixel `(i, j)` of it shows texel `(i, j)`, mirrored as HFLIP and VFLIP say, and a transparent texel leaves the
pixel alone; every other pixel of the buffer is kept, those of the sprite that fail the clip tests too
(42_command_processor.md rules R233, R238, R240). -/
def Obligations.NormalSpriteCopiesTheTexture : Prop :=
  (∀ (m : Arena) (d : DrawOps) (t : TexOps) (u v : Nat),
    let base := t.srca.toNat * 8
    let n := v * t.width.toNat + u
    let b := (m.read8 .vram1 (base + n / 2)).toNat
    let nibble := if n % 2 = 0 then b / 16 else b % 16
    let byte := (m.read8 .vram1 (base + n)).toNat
    let bank := d.colr.toNat
    let mode := d.pmod.toNat / 8 % 8
    let texel := fetchTexel m (textureOf d t) u v
    (mode = 0 → texel.raw.toNat = nibble ∧ texel.value.toNat = bank / 16 * 16 + nibble) ∧
    (mode = 1 → texel.raw.toNat = nibble ∧ texel.value = m.read16 .vram1 (bank * 8 + 2 * nibble)) ∧
    (mode = 2 → texel.raw.toNat = byte ∧ texel.value.toNat = bank / 64 * 64 + byte % 64) ∧
    (mode = 3 → texel.raw.toNat = byte ∧ texel.value.toNat = bank / 128 * 128 + byte % 128) ∧
    (mode = 4 → texel.raw.toNat = byte ∧ texel.value.toNat = bank / 256 * 256 + byte) ∧
    (mode = 5 → texel.raw = m.read16 .vram1 (base + 2 * n) ∧ texel.value = texel.raw) ∧
    (texel.transparent d.pmod = true ↔ d.pmod.getLsbD 6 = false ∧ texel.raw = 0)) ∧
  ∀ (d : DrawOps) (t : TexOps) (va : Vertex) (s : State), s.spriteAdmitted = true → pmodGour d.pmod = false →
    pmodCM d.pmod < 6 → s.ctx.sysClipH.toNat ≤ 511 → s.ctx.sysClipV.toNat ≤ 255 →
    ∃ u, exec (.nspr d t va) s = .next u ∧
      (∀ x y : Nat, onScreen x y →
        ¬((s.position va).x ≤ x ∧ (x : Int) < (s.position va).x + t.width.toNat ∧ (s.position va).y ≤ y ∧
            (y : Int) < (s.position va).y + t.height.toNat ∧ s.ctx.visible d.pmod x y = true) →
          u.mem.pixel s.drawBuffer x y = s.mem.pixel s.drawBuffer x y) ∧
      ∀ i j : Nat, i < t.width.toNat → j < t.height.toNat →
        s.ctx.visible d.pmod ((s.position va).x + i) ((s.position va).y + j) = true →
        let texel :=
          fetchTexel s.mem (textureOf d t) (if t.hflip then (t.width.toNat : Int) - 1 - i else i)
            (if t.vflip then (t.height.toNat : Int) - 1 - j else j)
        let offset := fbOff ((s.position va).x + i) ((s.position va).y + j)
        u.mem.read16 s.drawBuffer offset =
          if texel.transparent d.pmod then s.mem.read16 s.drawBuffer offset else texel.value

/-- The bounding-box rejection is an optimisation: whatever it rejects would have plotted nothing, for every kind of
primitive whose coordinates lie in the range of rule R13 (42_command_processor.md rule R234). -/
def Obligations.RejectionLosesNoPixel : Prop :=
  ∀ (s : State) (d : DrawOps) (q : Corners),
    (∀ p ∈ q.list, -16384 ≤ p.x ∧ p.x ≤ 16383 ∧ -16384 ≤ p.y ∧ p.y ≤ 16383) →
    (s.ctx.rejects d.pmod [q.a, q.b] = true → s.writesOf d.pmod (linePlots s.mem d 0 0 q.a q.b) = []) ∧
    (s.ctx.rejects d.pmod q.list = true →
      s.writesOf d.pmod (quadPlots s.mem d q) = [] ∧
      (∀ (x : Texture) (hflip vflip : Bool), s.writesOf d.pmod (texQuadPlots s.mem d x hflip vflip q) = []) ∧
      s.writesOf d.pmod
        (linePlots s.mem d 0 0 q.a q.b ++ linePlots s.mem d 0 0 q.b q.c ++ linePlots s.mem d 0 0 q.c q.d ++
          linePlots s.mem d 0 0 q.d q.a) = [])

/-! ### Steppers -/

/-- A line visits exactly `max(|dx|, |dy|) + 1` points, an 8-connected path from its start; it ends at its end point
when the span is at most 32768, the bound of the rules' coordinates (40_rasterizer.md rules R169, R170). Point `k` has
moved `k` along the major axis and, from the middle of the start pixel, `k` truncated increments along the minor one
(rules R161, R162, R165, R166). -/
def Obligations.LineIsAnEightConnectedPath : Prop :=
  ∀ c1 c2 : Coord,
    (linePoints c1 c2).length = max (c2.x - c1.x).natAbs (c2.y - c1.y).natAbs + 1 ∧
    (linePoints c1 c2).head? = some c1 ∧
    (∀ (k : Nat) (p q : Coord), (linePoints c1 c2)[k]? = some p → (linePoints c1 c2)[k + 1]? = some q →
      max (q.x - p.x).natAbs (q.y - p.y).natAbs = 1) ∧
    (max (c2.x - c1.x).natAbs (c2.y - c1.y).natAbs ≤ 32768 → (linePoints c1 c2).getLast? = some c2) ∧
    ∀ k, k ≤ max (c2.x - c1.x).natAbs (c2.y - c1.y).natAbs →
      let dmaj : Int := max (c2.x - c1.x).natAbs (c2.y - c1.y).natAbs
      let major (p q : Int) : Int := if p ≤ q then p + k else p - k
      let minor (p q : Int) : Int := (p * 0x10000 + 0x8000 + k * ((q - p) * 0x10000).tdiv dmaj) / 0x10000
      (linePoints c1 c2)[k]? =
        some
          (if (c2.y - c1.y).natAbs ≤ (c2.x - c1.x).natAbs then ⟨major c1.x c2.x, minor c1.y c2.y⟩
          else ⟨minor c1.x c2.x, major c1.y c2.y⟩)

/-- The texel index of a textured line stays in `[0, size)` at every visited point, and no point is visited when the
size is 0; the same for the row index of a textured quad (40_rasterizer.md rules R174, R178). -/
def Obligations.TexelIndexStaysInRange : Prop :=
  (∀ (c1 c2 : Coord) (size : Nat) (flip : Bool),
    (∀ s ∈ texLineVisits c1 c2 size flip, 0 ≤ s.u ∧ s.u < size) ∧ texLineVisits c1 c2 0 flip = []) ∧
  ∀ (a b c d : Coord) (size : Nat) (flip : Bool),
    (∀ s ∈ texQuadVisits a b c d size flip, 0 ≤ s.v ∧ s.v < size) ∧ texQuadVisits a b c d 0 flip = []

/-- A quad makes one row for each step of its longer edge and one more, the first from A to B and the last from D to C;
`swapped` is set exactly when the first edge is the shorter. Row `k` joins the points that its two edges, A to D and B
to C, reach after `k` increments (40_rasterizer.md rules R175, R176, R177). -/
def Obligations.QuadStepsItsLongerEdge : Prop :=
  ∀ a b c d : Coord,
    let span (p q : Coord) : Nat := max (q.x - p.x).natAbs (q.y - p.y).natAbs
    (quadRows a b c d).length = max (span a d) (span b c) + 1 ∧
    ((QuadStepper.new a b c d).swapped = true ↔ span a d < span b c) ∧
    (max (span a d) (span b c) ≤ 32768 →
      (quadRows a b c d).head? = some (a, b) ∧ (quadRows a b c d).getLast? = some (d, c)) ∧
    ∀ k, k ≤ max (span a d) (span b c) →
      let edge (p q : Int) : Int :=
        (p * 0x10000 + 0x8000 + k * ((q - p) * 0x10000).tdiv (max (span a d) (span b c) : Nat)) / 0x10000
      (quadRows a b c d)[k]? = some (⟨edge a.x d.x, edge a.y d.y⟩, ⟨edge b.x c.x, edge b.y c.y⟩)

/-! ### Framebuffers and frames -/

/-- The erase fills the scaled and clamped rectangle of the display-role buffer with the fill value; every pixel outside
it, every other memory and the rest of the state are kept; after a swap the bus window reads the same pixels
(41_framebuffer.md rules R203, R204, R206). -/
def Obligations.EraseFillsExactlyItsRectangle : Prop :=
  ∀ s : State, s.spriteAdmitted = true → ∃ t, eraseActive s = .next t ∧ t = { s with mem := t.mem } ∧
    (∀ x y : Nat, onScreen x y →
      let scaleX := if s.timing.hires then 2 else 1
      let scaleY := if s.timing.dblInterlace then 2 else 1
      let inside :=
        s.reg1.eraseX1.toNat * 8 * scaleX ≤ x ∧ x < min (s.reg1.eraseX3.toNat * 8 * scaleX) 512 ∧
          s.reg1.eraseY1.toNat * scaleY ≤ y ∧ y ≤ min (s.reg1.eraseY3.toNat * scaleY) 255
      (inside → t.fbReadDisplay x y = s.reg1.eraseFill) ∧ (¬inside → t.fbReadDisplay x y = s.fbReadDisplay x y)) ∧
    (∀ id a, id ≠ s.displayBuffer → t.mem.read8 id a = s.mem.read8 id a) ∧
    ∀ u, swap t = .next u → ∀ x y : Nat, onScreen x y → (memRead16 u .fb (fbOff x y)).2 = t.fbReadDisplay x y

/-- The swap performs a requested manual erase first, toggles the draw index, reports it, and in continuous-draw mode
begins a frame; the rest of the state is kept (41_framebuffer.md rule R205). -/
def Obligations.SwapTogglesTheRoles : Prop :=
  ∀ s : State, s.spriteAdmitted = true → ∃ t, swap s = .next t ∧
    t = { s with mem := t.mem, reg1 := t.reg1, fbc := t.fbc, ctx := t.ctx, out := s.out ++ [.bufferSwap] } ∧
    t.fbc = { s.fbc with manualErase := false, drawIndex := !s.fbc.drawIndex } ∧
    (s.fbc.manualErase = false → t.mem = s.mem) ∧
    (s.fbc.manualErase = true → ∀ e, eraseActive s = .next e → t.mem = e.mem) ∧
    (s.reg1.plotTrigger ≠ 2 → t.reg1 = s.reg1 ∧ t.ctx = s.ctx) ∧
    (s.reg1.plotTrigger = 2 → t.reg1 = (beginFrame s).reg1 ∧ t.ctx = (beginFrame s).ctx)

/-- A written plot trigger of 1 begins a frame inside the bus step: the marks move on, the processor runs from address 0
with the clips, the origin and the counter at their frame values; any other value only stores (30_encoding.md rule R142,
42_command_processor.md rule R221). -/
def Obligations.PlotTriggerBeginsAFrame : Prop :=
  ∀ (s : State) (v : Word),
    (v.extractLsb' 0 2 = 1#2 →
      memWrite16 s .reg1 0x04 v =
        { s with
          reg1 := { s.reg1 with plotTrigger := 1, bef := s.reg1.cef, cef := 0 }
          ctx :=
            { rendering := true, cmdAddr := 0, retValid := false, retAddr := 0, sysClipH := 511, sysClipV := 255,
              userClipX0 := 0, userClipY0 := 0, userClipX1 := 511, userClipY1 := 255, localX := 0, localY := 0,
              drawCalls := 0 } }) ∧
    (v.extractLsb' 0 2 ≠ 1#2 →
      memWrite16 s .reg1 0x04 v = { s with reg1 := { s.reg1 with plotTrigger := v.extractLsb' 0 2 } })

/-! ### The bus -/

/-- A byte written to a memory region is read back; a word written at an even offset is read back whole and as its two
bytes, the high one first; a long as its two words, the high one first. Every other byte of every memory and the rest of
the state are kept (20_memory.md rules R83, R84, R86, R87). -/
def Obligations.MemoriesAreBigEndian : Prop :=
  ∀ (s : State) (r : Region) (id : MemId) (a : Nat), s.memOf r = some id →
    (∀ v : Byte,
      (memRead8 (memWrite8 s r a v) r a).2 = v ∧
      memWrite8 s r a v = { s with mem := (memWrite8 s r a v).mem } ∧
      ∀ id' b, id' ≠ id ∨ b % id.size ≠ a % id.size → (memWrite8 s r a v).mem.read8 id' b = s.mem.read8 id' b) ∧
    (a % 2 = 0 →
      (∀ v : Word,
        (memRead8 (memWrite16 s r a v) r a).2 = v.extractLsb' 8 8 ∧
        (memRead8 (memWrite16 s r a v) r (a + 1)).2 = v.extractLsb' 0 8 ∧
        (memRead16 (memWrite16 s r a v) r a).2 = v ∧
        memWrite16 s r a v = { s with mem := (memWrite16 s r a v).mem } ∧
        ∀ id' b, id' ≠ id ∨ (b % id.size ≠ a % id.size ∧ b % id.size ≠ (a + 1) % id.size) →
          (memWrite16 s r a v).mem.read8 id' b = s.mem.read8 id' b) ∧
      ∀ v : Long,
        (memRead16 (memWrite32 s r a v) r a).2 = v.extractLsb' 16 16 ∧
        (memRead16 (memWrite32 s r a v) r (a + 2)).2 = v.extractLsb' 0 16 ∧
        (memRead32 (memWrite32 s r a v) r a).2 = v ∧
        memWrite32 s r a v = { s with mem := (memWrite32 s r a v).mem } ∧
        ∀ id' b, id' ≠ id ∨ (∀ k, k < 4 → b % id.size ≠ (a + k) % id.size) →
          (memWrite32 s r a v).mem.read8 id' b = s.mem.read8 id' b)

/-- A 1-byte access to a register region, recognized offset or not, and a 2-byte or 4-byte access at an odd offset,
reads 0 or is dropped, logs category E1 (each half of a long its own record) and changes nothing else. A word access
to an even offset that holds no register does the same with category E2, the offset not reduced modulo the region; one
to an offset that holds a register logs nothing, but for a write to the two read-only ones (20_memory.md rules R84,
R85, R88, R89; 60_exceptions.md rule R453). -/
def Obligations.AccessErrorsOnlyLog : Prop :=
  (∀ (s : State) (r : Region) (a : Nat),
    (r = .reg1 ∨ r = .reg2 →
      memRead8 s r a = ({ s with diag := s.diag ++ [.illegalAccess r a 1 false] }, 0) ∧
      ∀ v, memWrite8 s r a v = { s with diag := s.diag ++ [.illegalAccess r a 1 true] }) ∧
    (a % 2 = 1 →
      memRead16 s r a = ({ s with diag := s.diag ++ [.illegalAccess r a 2 false] }, 0) ∧
      (∀ v, memWrite16 s r a v = { s with diag := s.diag ++ [.illegalAccess r a 2 true] }) ∧
      memRead32 s r a =
        ({ s with diag := s.diag ++ [.illegalAccess r a 2 false, .illegalAccess r (a + 2) 2 false] }, 0) ∧
      ∀ v,
        memWrite32 s r a v =
          { s with diag := s.diag ++ [.illegalAccess r a 2 true, .illegalAccess r (a + 2) 2 true] })) ∧
  ∀ (s : State) (a : Nat), a % 2 = 0 →
    (a ∉ [0x00, 0x02, 0x04, 0x06, 0x08, 0x0A, 0x10, 0x14] →
      memRead16 s .reg1 a = ({ s with diag := s.diag ++ [.unhandledRegister .reg1 a false] }, 0) ∧
      ∀ v, memWrite16 s .reg1 a v = { s with diag := s.diag ++ [.unhandledRegister .reg1 a true] }) ∧
    (a ∈ [0x00, 0x02, 0x04, 0x06, 0x08, 0x0A, 0x10, 0x14] → (memRead16 s .reg1 a).1 = s) ∧
    (a ∈ [0x00, 0x02, 0x04, 0x06, 0x08, 0x0A] → ∀ v, (memWrite16 s .reg1 a v).diag = s.diag) ∧
    (((91 ≤ a / 2 ∧ a / 2 < 128) ∨
        (128 ≤ a / 2 ∧ a / 2 < 512 ∧ ((a / 2 - 128) % 64 = 31 ∨ 50 ≤ (a / 2 - 128) % 64)) ∨ 512 ≤ a / 2) →
      memRead16 s .reg2 a = ({ s with diag := s.diag ++ [.unhandledRegister .reg2 a false] }, 0) ∧
      ∀ v, memWrite16 s .reg2 a v = { s with diag := s.diag ++ [.unhandledRegister .reg2 a true] }) ∧
    (¬((91 ≤ a / 2 ∧ a / 2 < 128) ∨
        (128 ≤ a / 2 ∧ a / 2 < 512 ∧ ((a / 2 - 128) % 64 = 31 ∨ 50 ≤ (a / 2 - 128) % 64)) ∨ 512 ≤ a / 2) →
      (memRead16 s .reg2 a).1 = s ∧ ∀ v, (memWrite16 s .reg2 a v).diag = s.diag)

/-- The fields of `Cfg2` have the widths of their tables, and no other index holds one; each named field is the low bits
of the register at its index, a one-bit field its bit, an offset read as signed, an address its two parts with bit 0
cleared (10_state.md rules R57, R58, R59). A field reads back the low bits last written to it, zero-extended; every
other field is kept; a write to HRES, VRES or LSMD leaves a request pending exactly when the three differ from those in
force; nothing else changes (30_encoding.md rules R145, R146). -/
def Obligations.BackgroundFieldsReadBack : Prop :=
  (∀ (w : Nat) (ks : List Nat),
    (w, ks) ∈
        [(1, [0, 5, 7, 10, 17, 24, 30, 31, 33, 36, 37, 39, 53, 54, 57, 74, 75, 76, 86, 87, 88, 89, 90]),
          (2, [2, 3, 4, 27, 32, 38, 42, 43, 55]),
          (3, [1, 8, 11, 18, 25, 28, 34, 40, 50, 56, 58, 59, 60, 61, 62, 63, 64, 65]), (4, [49, 52]),
          (5, [66, 67, 68, 69, 70, 71, 72, 73, 78, 79]), (7, [46, 77]), (8, [6, 47, 48]),
          (9, [14, 16, 21, 23, 80, 81, 82, 83, 84, 85]), (10, [13, 15, 20, 22]),
          (16, [9, 12, 19, 26, 29, 35, 41, 44, 45, 51])] →
      ∀ k ∈ ks, fieldWidth k = some w) ∧
  (∀ (w : Nat) (js : List Nat),
    (w, js) ∈
        [(1, [0, 1, 2, 4, 8, 9, 15, 17, 19, 20, 21, 22, 23]), (2, [5, 6, 10, 13, 14]), (3, [3, 7, 11, 12, 32]),
          (5, [18]), (6, [30]), (7, [16]), (8, [25, 27]), (11, [24, 26, 28, 29]),
          (16, [33, 34, 35, 36, 37, 38, 39, 40, 41, 42, 43, 44, 45, 46, 47, 48, 49])] →
      ∀ j ∈ js, ∀ n, n < 6 → fieldWidth (128 + 64 * n + j) = some w) ∧
  (∀ k, (91 ≤ k ∧ k < 128) ∨ (128 ≤ k ∧ k < 512 ∧ ((k - 128) % 64 = 31 ∨ 50 ≤ (k - 128) % 64)) ∨ 512 ≤ k →
    fieldWidth k = none) ∧
  (∀ s : State,
    let c := s.cfg2
    let f (k w : Nat) : Nat := (memRead16 s .reg2 (2 * k)).2.toNat % 2 ^ w
    let signed (v : Nat) : Int := if v < 256 then v else (v : Int) - 512
    let address (hi lo : Nat) : Nat := (hi * 0x10000 + lo) / 2 * 2
    c.disp.toNat = f 0 1 ∧ c.hres.toNat = f 1 3 ∧ c.vres.toNat = f 2 2 ∧ c.lsmd.toNat = f 3 2 ∧ c.crmd = f 4 2 ∧
    c.crkte.toNat = f 5 1 ∧ c.rdbs = f 6 8 ∧ c.bkclmd.toNat = f 7 1 ∧ c.bktaHi = f 8 3 ∧ c.bktaLo = f 9 16 ∧
    c.lcclmd.toNat = f 10 1 ∧ c.lctaHi = f 11 3 ∧ c.lctaLo = f 12 16 ∧ c.w0Sx = f 13 10 ∧ c.w0Sy = f 14 9 ∧
    c.w0Ex = f 15 10 ∧ c.w0Ey = f 16 9 ∧ c.w0Lwe.toNat = f 17 1 ∧ c.w0LwtaHi = f 18 3 ∧ c.w0LwtaLo = f 19 16 ∧
    c.w1Sx = f 20 10 ∧ c.w1Sy = f 21 9 ∧ c.w1Ex = f 22 10 ∧ c.w1Ey = f 23 9 ∧ c.w1Lwe.toNat = f 24 1 ∧
    c.w1LwtaHi = f 25 3 ∧ c.w1LwtaLo = f 26 16 ∧ c.rpmd = f 27 2 ∧ c.rptaHi = f 28 3 ∧ c.rptaLo = f 29 16 ∧
    c.rpwctl.toNat = f 46 7 ∧ c.sfcodeA = f 47 8 ∧ c.sfcodeB = f 48 8 ∧ c.mzszh = f 49 4 ∧ c.vcstaHi = f 50 3 ∧
    c.vcstaLo = f 51 16 ∧ c.sptype = f 52 4 ∧ c.spclmd.toNat = f 53 1 ∧ c.spwinen.toNat = f 54 1 ∧ c.spcccs = f 55 2 ∧
    c.spccn = f 56 3 ∧ c.r1on.toNat = f 57 1 ∧ c.ccmd.toNat = f 74 1 ∧ c.ccrtmd.toNat = f 75 1 ∧
    c.exccen.toNat = f 76 1 ∧ c.ccwctl.toNat = f 77 7 ∧ c.lcccrt = f 78 5 ∧ c.bkccrt = f 79 5 ∧
    c.coaR = signed (f 80 9) ∧ c.coaG = signed (f 81 9) ∧ c.coaB = signed (f 82 9) ∧ c.cobR = signed (f 83 9) ∧
    c.cobG = signed (f 84 9) ∧ c.cobB = signed (f 85 9) ∧ c.lcccen.toNat = f 86 1 ∧ c.bkccen.toNat = f 87 1 ∧
    c.bkcoen.toNat = f 88 1 ∧ c.bkcosl.toNat = f 89 1 ∧ c.bksden.toNat = f 90 1 ∧
    (c.kte .a).toNat = f 30 1 ∧ (c.kte .b).toNat = f 36 1 ∧ (c.kdbs .a).toNat = f 31 1 ∧ (c.kdbs .b).toNat = f 37 1 ∧
    c.kmd .a = f 32 2 ∧ c.kmd .b = f 38 2 ∧ (c.kdot .a).toNat = f 33 1 ∧ (c.kdot .b).toNat = f 39 1 ∧
    c.ktbase .a = address (f 34 3) (f 35 16) ∧ c.ktbase .b = address (f 40 3) (f 41 16) ∧ c.over .a = f 42 2 ∧
    c.over .b = f 43 2 ∧ c.ovpn .a = f 44 16 ∧ c.ovpn .b = f 45 16 ∧
    (∀ i, i < 8 → (c.sppri i).toNat = f (58 + i) 3 ∧ c.spccrt i = f (66 + i) 5) ∧
    ∀ (L : Slot) (n : Nat),
      (L, n) ∈ [(Slot.sprite, 0), (.rbg0, 1), (.nbg0, 2), (.nbg1, 3), (.nbg2, 4), (.nbg3, 5)] →
      let g (j w : Nat) : Nat := f (128 + 64 * n + j) w
      (c.on L).toNat = g 0 1 ∧ (c.tpen L).toNat = g 1 1 ∧ (c.bmen L).toNat = g 2 1 ∧ c.chcn L = g 3 3 ∧
      (c.chsz L).toNat = g 4 1 ∧ c.plsz L = g 5 2 ∧ c.bmsz L = g 6 2 ∧ c.bmpal L = g 7 3 ∧ (c.bmspr L).toNat = g 8 1 ∧
      (c.bmscc L).toNat = g 9 1 ∧ c.bmbase L = g 10 2 ∧ c.caos L = g 11 3 ∧ (c.prin L).toNat = g 12 3 ∧
      c.sprm L = g 13 2 ∧ c.sccm L = g 14 2 ∧ (c.sfsel L).toNat = g 15 1 ∧ (c.wctl L).toNat = g 16 7 ∧
      (c.ccen L).toNat = g 17 1 ∧ c.ccrt L = g 18 5 ∧ (c.lcen L).toNat = g 19 1 ∧ (c.coen L).toNat = g 20 1 ∧
      (c.cosl L).toNat = g 21 1 ∧ (c.sden L).toNat = g 22 1 ∧ (c.mze L).toNat = g 23 1 ∧ c.scxI L = g 24 11 ∧
      c.scxF L = g 25 8 ∧ c.scyI L = g 26 11 ∧ c.scyF L = g 27 8 ∧ c.zmx L = g 28 11 ∧ c.zmy L = g 29 11 ∧
      (c.lsctl L).toNat = g 30 6 ∧ c.lstaHi L = g 32 3 ∧ c.lstaLo L = g 33 16 ∧
      c.scx L = g 24 11 * 256 + g 25 8 ∧ c.scy L = g 26 11 * 256 + g 27 8 ∧
      ∀ i, i < 16 → c.plane L i = g (34 + i) 16) ∧
  ∀ (s : State) (k w : Nat) (v : Word), fieldWidth k = some w →
    let t := memWrite16 s .reg2 (2 * k) v
    (memRead16 t .reg2 (2 * k)).2.toNat = v.toNat % 2 ^ w ∧
    (∀ k', k' ≠ k → (memRead16 t .reg2 (2 * k')).2 = (memRead16 s .reg2 (2 * k')).2) ∧
    t = { s with cfg2 := t.cfg2, timing := t.timing } ∧
    (k = 1 ∨ k = 2 ∨ k = 3 →
      t.timing =
        { s.timing with
          resPending :=
            decide
              ((t.cfg2.hres, t.cfg2.vres, t.cfg2.lsmd) ≠ (s.timing.actHRES, s.timing.actVRES, s.timing.actLSMD)) }) ∧
    (k ≠ 1 ∧ k ≠ 2 ∧ k ≠ 3 → t.timing = s.timing)

/-- The sprite processor's registers: the bits each read gives, and the fields each write sets with everything else
kept; FBCR sets the latch its two bits name, EDSR and COPR are read-only (30_encoding.md rules R140, R141). -/
def Obligations.SpriteRegistersReadBack : Prop :=
  (∀ s : State,
    (memRead16 s .reg1 0x00).2.toNat = 8 * s.reg1.vblankErase.toNat + s.reg1.tvMode.toNat ∧
    (memRead16 s .reg1 0x02).2.toNat = 2 * s.reg1.fbSwapMode.toNat + s.reg1.fbSwapTrigger.toNat ∧
    (memRead16 s .reg1 0x04).2.toNat = s.reg1.plotTrigger.toNat ∧
    (memRead16 s .reg1 0x06).2 = s.reg1.eraseFill ∧
    (memRead16 s .reg1 0x08).2.toNat = 512 * s.reg1.eraseX1.toNat + s.reg1.eraseY1.toNat ∧
    (memRead16 s .reg1 0x0A).2.toNat = 512 * s.reg1.eraseX3.toNat + s.reg1.eraseY3.toNat ∧
    (memRead16 s .reg1 0x10).2.toNat = 2 * s.reg1.cef.toNat + s.reg1.bef.toNat ∧
    (memRead16 s .reg1 0x14).2.toNat = s.ctx.cmdAddr.toNat / 8) ∧
  ∀ (s : State) (v : Word),
    memWrite16 s .reg1 0x00 v =
      { s with reg1 := { s.reg1 with vblankErase := v.extractLsb' 3 1, tvMode := v.extractLsb' 0 3 } } ∧
    memWrite16 s .reg1 0x02 v =
      { s with
        reg1 := { s.reg1 with fbSwapMode := v.extractLsb' 1 1, fbSwapTrigger := v.extractLsb' 0 1 }
        fbc :=
          { s.fbc with
            manualSwap := s.fbc.manualSwap || (v.getLsbD 1 && v.getLsbD 0)
            manualErase := s.fbc.manualErase || (v.getLsbD 1 && !v.getLsbD 0) } } ∧
    memWrite16 s .reg1 0x06 v = { s with reg1 := { s.reg1 with eraseFill := v } } ∧
    memWrite16 s .reg1 0x08 v =
      { s with reg1 := { s.reg1 with eraseX1 := v.extractLsb' 9 6, eraseY1 := v.extractLsb' 0 9 } } ∧
    memWrite16 s .reg1 0x0A v =
      { s with reg1 := { s.reg1 with eraseX3 := v.extractLsb' 9 7, eraseY3 := v.extractLsb' 0 9 } } ∧
    ∀ a, a = 0x10 ∨ a = 0x14 →
      memWrite16 s .reg1 a v = { s with diag := s.diag ++ [.unhandledRegister .reg1 a true] }

/-- A bus read and a dump change nothing but the diagnostic list and the value handed back. A read hands back the value
of its width, zero-extended; the dump of a memory hands back its bytes in offset order, that of FB those of both
framebuffers by index, that of a register region what word reads give (20_memory.md rules R86, R99; the field that keeps
the value is the model's, assumption log 11, and so is the dump of the register regions, log 15). -/
def Obligations.ReadsChangeNothingButTheLog : Prop :=
  (∀ (s : State) (r : Region) (a : Nat) (w : Width),
    busRead s r a w = { s with diag := (busRead s r a w).diag, result := (busRead s r a w).result } ∧
      s.diag <+: (busRead s r a w).diag) ∧
  (∀ (s : State) (r : Region) (a : Nat),
    ((busRead s r a .byte).result = .data ((memRead8 s r a).2.setWidth 32) ∧
      (busRead s r a .byte).diag = (memRead8 s r a).1.diag) ∧
    ((busRead s r a .word).result = .data ((memRead16 s r a).2.setWidth 32) ∧
      (busRead s r a .word).diag = (memRead16 s r a).1.diag) ∧
    (busRead s r a .long).result = .data (memRead32 s r a).2 ∧ (busRead s r a .long).diag = (memRead32 s r a).1.diag) ∧
  ∀ s : State,
    (∀ r, dump s r = { s with result := (dump s r).result }) ∧
    (dump s .vram1).result = .bytes ((List.range 0x80000).map fun a => s.mem.read8 .vram1 a) ∧
    (dump s .fb).result =
      .bytes
        (((List.range 0x40000).map fun a => s.mem.read8 .fb0 a) ++
          (List.range 0x40000).map fun a => s.mem.read8 .fb1 a) ∧
    (dump s .vram2).result = .bytes ((List.range 0x80000).map fun a => s.mem.read8 .vram2 a) ∧
    (dump s .cram).result = .bytes ((List.range 0x1000).map fun a => s.mem.read8 .cram a) ∧
    ∀ r n, (r = .reg1 ∧ n = 12) ∨ (r = .reg2 ∧ n = 512) →
      (dump s r).result = .bytes ((List.range n).flatMap fun k => bytesOfWord (memRead16 s r (2 * k)).2)

/-! ### Display timing -/

/-- A phase event moves to the next horizontal phase and hands back its duration from the table in force after the entry
action; entering `HSync` and `HLeftBorder` does nothing more (43_display_timing.md rule R284). -/
def Obligations.PhaseEventsCycleThePhases : Prop :=
  (∀ s t : State, phaseEvent s = .next t →
    (s.timing.hphase = .active → t.timing.hphase = .rightBorder ∧ t.result = .cycles t.ht.rightBorder) ∧
    (s.timing.hphase = .rightBorder → t.timing.hphase = .sync ∧ t.result = .cycles t.ht.sync) ∧
    (s.timing.hphase = .sync → t.timing.hphase = .vblankOut ∧ t.result = .cycles t.ht.vblankOut) ∧
    (s.timing.hphase = .vblankOut → t.timing.hphase = .leftBorder ∧ t.result = .cycles t.ht.leftBorder) ∧
    (s.timing.hphase = .leftBorder → t.timing.hphase = .lastDot ∧ t.result = .cycles t.ht.lastDot) ∧
    (s.timing.hphase = .lastDot → t.timing.hphase = .active ∧ t.result = .cycles t.ht.active)) ∧
  (∀ s : State, s.timing.hphase = .rightBorder →
    phaseEvent s = .next { s with timing := { s.timing with hphase := .sync }, result := .cycles s.ht.sync }) ∧
  ∀ s : State, s.timing.hphase = .vblankOut →
    phaseEvent s =
      .next { s with timing := { s.timing with hphase := .leftBorder }, result := .cycles s.ht.leftBorder }

/-- Where the triggers are raised. Entering `HRightBorder`: `HBlankStart` in `VActive`, nothing in the other vertical
phases. Entering `VLastLine`: `VBlankEnd`. In `VActive`: `PeripheralRead` once, one line before `VBottomBorder`, and
marked as raised; entering `VActive` clears the mark and the counter. Nothing else changes (43_display_timing.md rules
R285, R290, R291, R293). -/
def Obligations.TriggersAreRaisedOnTheirLines : Prop :=
  (∀ s : State, s.timing.hphase = .active →
    phaseEvent s =
      .next
        { s with
          timing := { s.timing with hphase := .rightBorder }
          out := if s.timing.vphase = .active then s.out ++ [.trigger .hblankStart] else s.out
          result := .cycles s.ht.rightBorder }) ∧
  (∀ s : State, s.timing.hphase = .leftBorder → s.timing.vphase = .topBorder → s.vt.lastLine ≤ s.timing.vcnt + 1 →
    phaseEvent s =
      .next
        { s with
          timing := { s.timing with hphase := .lastDot, vphase := .lastLine, vcnt := s.timing.vcnt + 1 }
          out := s.out ++ [.trigger .vblankEnd]
          result := .cycles s.ht.lastDot }) ∧
  (∀ s : State, s.timing.hphase = .leftBorder → s.timing.vphase = .lastLine → s.vt.total ≤ s.timing.vcnt + 1 →
    1 < s.vt.bottomBorder →
    phaseEvent s =
      .next
        { s with
          timing := { s.timing with hphase := .lastDot, vphase := .active, vcnt := 0, periphDone := false }
          result := .cycles s.ht.lastDot }) ∧
  ∀ s : State, s.timing.hphase = .leftBorder → s.timing.vphase = .active → s.timing.vcnt + 1 < s.vt.bottomBorder →
    phaseEvent s =
      .next
        { s with
          timing :=
            { s.timing with
              hphase := .lastDot
              vcnt := s.timing.vcnt + 1
              periphDone := s.timing.periphDone || decide (s.vt.bottomBorder ≤ s.timing.vcnt + 2) }
          out :=
            if s.timing.periphDone = false ∧ s.vt.bottomBorder ≤ s.timing.vcnt + 2 then
              s.out ++ [.trigger .peripheralRead]
            else s.out
          result := .cycles s.ht.lastDot }

/-- Entering `HLastDot` counts a line and makes at most one vertical transition, at the threshold of the table in force;
the counter wraps to 0 exactly on entering `VActive`. A line without an action changes nothing else: any line in
`VBottomBorder`, and one that stays in `VBlankingAndSync`, `VTopBorder` or `VLastLine` (43_display_timing.md rules R286,
R293). -/
def Obligations.LastDotCountsTheLine : Prop :=
  (∀ s t : State, s.timing.hphase = .leftBorder → phaseEvent s = .next t →
    t.timing.vphase =
      (match s.timing.vphase with
        | .active => if s.vt.bottomBorder ≤ s.timing.vcnt + 1 then .bottomBorder else .active
        | .bottomBorder => if s.vt.blankingAndSync ≤ s.timing.vcnt + 1 then .blankingAndSync else .bottomBorder
        | .blankingAndSync => if s.vt.topBorder ≤ s.timing.vcnt + 1 then .topBorder else .blankingAndSync
        | .topBorder => if s.vt.lastLine ≤ s.timing.vcnt + 1 then .lastLine else .topBorder
        | .lastLine => if s.vt.total ≤ s.timing.vcnt + 1 then .active else .lastLine) ∧
    t.timing.vcnt =
      if s.timing.vphase = .lastLine ∧ s.vt.total ≤ s.timing.vcnt + 1 then 0 else s.timing.vcnt + 1) ∧
  ∀ s : State, s.timing.hphase = .leftBorder →
    (s.timing.vphase = .bottomBorder →
      phaseEvent s =
        .next
          { s with
            timing :=
              { s.timing with
                hphase := .lastDot
                vphase := if s.vt.blankingAndSync ≤ s.timing.vcnt + 1 then .blankingAndSync else .bottomBorder
                vcnt := s.timing.vcnt + 1 }
            result := .cycles s.ht.lastDot }) ∧
    ((s.timing.vphase = .blankingAndSync ∧ s.timing.vcnt + 1 < s.vt.topBorder) ∨
        (s.timing.vphase = .topBorder ∧ s.timing.vcnt + 1 < s.vt.lastLine) ∨
        (s.timing.vphase = .lastLine ∧ s.timing.vcnt + 1 < s.vt.total) →
      phaseEvent s =
        .next
          { s with
            timing := { s.timing with hphase := .lastDot, vcnt := s.timing.vcnt + 1 }
            result := .cycles s.ht.lastDot })

/-- Entering `VBottomBorder`: `VBlankStart`, the erase if the erase bit or the automatic mode asks for it, then the
frame-complete record with a copy of the frame; nothing else changes (43_display_timing.md rules R288, R289, R297). -/
def Obligations.BottomBorderErasesAndReportsTheFrame : Prop :=
  ∀ s e : State, s.timing.hphase = .leftBorder → s.timing.vphase = .active → s.vt.bottomBorder ≤ s.timing.vcnt + 1 →
    eraseActive s = .next e →
    phaseEvent s =
      .next
        { s with
          timing := { s.timing with hphase := .lastDot, vphase := .bottomBorder, vcnt := s.timing.vcnt + 1 }
          mem := if s.reg1.vblankErase = 1 ∨ s.reg1.fbSwapMode = 0 then e.mem else s.mem
          out := s.out ++ [.trigger .vblankStart, .frameComplete s.outFrame s.timing.outW s.timing.outH]
          result := .cycles s.ht.lastDot }

/-- Entering `VTopBorder`: a pending resolution change takes the values last written, reports the new size and
replaces the output frame by a fresh one; without one nothing but the counters changes (43_display_timing.md rule
R294; the number of the fresh frame is the model's, assumption log 5). -/
def Obligations.TopBorderTakesTheResolution : Prop :=
  ∀ s : State, s.timing.hphase = .leftBorder → s.timing.vphase = .blankingAndSync →
    s.vt.topBorder ≤ s.timing.vcnt + 1 →
    (s.timing.resPending = true →
      let timing : Timing :=
        { s.timing with
          hphase := .lastDot
          vphase := .topBorder
          vcnt := s.timing.vcnt + 1
          actHRES := s.cfg2.hres
          actVRES := s.cfg2.vres
          actLSMD := s.cfg2.lsmd
          resPending := false }
      phaseEvent s =
        .next
          { s with
            timing := timing
            out := s.out ++ [.resolutionChange timing.outW timing.outH]
            outFrame := { width := timing.outW, height := timing.outH, fresh := s.freshCount, rows := [] }
            freshCount := s.freshCount + 1
            result := .cycles (s.params.ht.at (timing.actHRES.extractLsb' 0 2)).lastDot }) ∧
    (s.timing.resPending = false →
      phaseEvent s =
        .next
          { s with
            timing := { s.timing with hphase := .lastDot, vphase := .topBorder, vcnt := s.timing.vcnt + 1 }
            result := .cycles s.ht.lastDot })

/-- Entering `HVBlankOut` swaps in `VLastLine`, in the automatic mode or on a manual request, whose latch it clears;
otherwise it does nothing (43_display_timing.md rule R292). -/
def Obligations.LastLineSwaps : Prop :=
  ∀ s : State, s.timing.hphase = .sync →
    (s.timing.vphase = .lastLine → s.reg1.fbSwapMode = 0 ∨ s.fbc.manualSwap = true →
      ∀ t, swap { s with timing := { s.timing with hphase := .vblankOut }, fbc := { s.fbc with manualSwap := false } } =
          .next t →
        phaseEvent s = .next { t with result := .cycles s.ht.vblankOut }) ∧
    (¬(s.timing.vphase = .lastLine ∧ (s.reg1.fbSwapMode = 0 ∨ s.fbc.manualSwap = true)) →
      phaseEvent s =
        .next { s with timing := { s.timing with hphase := .vblankOut }, result := .cycles s.ht.vblankOut })

/-- Entering `HActive` with the display off: in `VActive` the row of the line counter is filled with the constant and
every other pixel is kept; in the other vertical phases nothing happens (43_display_timing.md rules R295, R296;
45_compositor.md rule R430). -/
def Obligations.DisabledDisplayFillsTheRow : Prop :=
  ∀ s : State, s.timing.hphase = .lastDot →
    (s.timing.vphase = .active → s.cfg2.disp = false → ∃ t, phaseEvent s = .next t ∧
      (∀ x, x < s.timing.outW → t.outFrame.pixel x s.timing.vcnt = 0xFF000000) ∧
      (∀ x y, y ≠ s.timing.vcnt → t.outFrame.pixel x y = s.outFrame.pixel x y) ∧
      t.acc = (if s.timing.vcnt = 0 then frameInitAcc s.cfg2 s.mem s.acc else s.acc) ∧
      t =
        { s with
          timing := { s.timing with hphase := .active }
          acc := t.acc
          outFrame := t.outFrame
          result := .cycles s.ht.active }) ∧
    (s.timing.vphase ≠ .active →
      phaseEvent s = .next { s with timing := { s.timing with hphase := .active }, result := .cycles s.ht.active })

/-- Entering `HActive` in `VActive` with the display on, in an admitted configuration: on line 0 the accumulators are
initialised from the tables first; then the line's accumulators and buffers are those of the background renderer, every
pixel of the row is the opaque output of `Pixel(x)`, every other row is kept, no memory, register or record changes, and
at the end of the line each accumulator moves by its increment (43_display_timing.md rules R295, R296; 44_background.md
rules R322, R326, R360, R385; 45_compositor.md rules R404, R430, R432). -/
def Obligations.ScanlineComposesTheRow : Prop :=
  ∀ s : State, s.timing.hphase = .lastDot → s.timing.vphase = .active → s.cfg2.disp = true → s.admitted = true →
    let y := s.timing.vcnt
    let s1 := if y = 0 then frameInit s else s
    ∃ t, phaseEvent s = .next t ∧
      t.buf = lineBuffers s1 y ∧
      t.acc = advanceLineAcc s.cfg2 (lineAcc s1 y) ∧
      (∀ x, x < s.timing.outW →
        let c := composePixel s.cfg2 (lineAcc s1 y) t.buf x
        t.outFrame.pixel x y =
          0xFF000000#32 ||| (c.b.setWidth 32 <<< 16) ||| (c.g.setWidth 32 <<< 8) ||| c.r.setWidth 32) ∧
      (∀ x y', y' ≠ y → t.outFrame.pixel x y' = s.outFrame.pixel x y') ∧
      t =
        { s with
          timing := { s.timing with hphase := .active }
          acc := t.acc
          buf := t.buf
          outFrame := t.outFrame
          result := .cycles s.ht.active } ∧
      (∀ L, (t.acc.scroll L).fracY = if L = .sprite ∨ L = .rbg0 then 0 else (s1.acc.scroll L).fracY + s.cfg2.zmy L) ∧
      ∀ P, (t.acc.rot P).rp = (s1.acc.rot P).rp ∧
        (t.acc.rot P).xstAcc = (s1.acc.rot P).xstAcc + (s1.acc.rot P).rp.dXst ∧
        (t.acc.rot P).ystAcc = (s1.acc.rot P).ystAcc + (s1.acc.rot P).rp.dYst ∧
        (t.acc.rot P).kaAcc = (s1.acc.rot P).kaAcc + (s1.acc.rot P).rp.dKast

/-- What is refused while it is in force. A sprite mode with `tvMode` not 0 or SPTYPE at least 8: every operation of a
command, an erase, a swap, and a scanline with the display on. CRMD = 3, or an enabled slot with CHCN in 5 .. 7 or, in
tile mode, PLSZ = 2: a scanline with the display on. Every other configuration is one the statements that ask for an
admitted configuration speak of (93_implementation_defined.md U6, U7; 44_background.md rule R321). Where the refusals
apply is read from the spec by inference (assumption logs 8, 9). -/
def Obligations.ReservedConfigurationsAreRefused : Prop :=
  (∀ s : State,
    let spriteMode : Prop := s.reg1.tvMode = 0 ∧ s.cfg2.sptype < 8
    let background : Prop :=
      s.cfg2.crmd ≠ 3 ∧
        ∀ L, L ≠ .sprite → s.cfg2.enabled L = true →
          s.cfg2.chcn L < 5 ∧ (s.cfg2.bmen L = false → s.cfg2.plsz L ≠ 2)
    (s.spriteAdmitted = true ↔ spriteMode) ∧ (s.cfg2.backgroundAdmitted = true ↔ background) ∧
      (s.admitted = true ↔ spriteMode ∧ (s.cfg2.disp = true → background))) ∧
  (∀ s : State, s.reg1.tvMode ≠ 0 ∨ 8 ≤ s.cfg2.sptype →
    (∀ i : Instr, i.isJump = false → exec i s = .refused .spriteMode) ∧ eraseActive s = .refused .spriteMode ∧
      swap s = .refused .spriteMode) ∧
  ∀ s : State, s.timing.hphase = .lastDot → s.timing.vphase = .active → s.cfg2.disp = true →
    (s.reg1.tvMode ≠ 0 ∨ 8 ≤ s.cfg2.sptype → phaseEvent s = .refused .spriteMode) ∧
    (s.reg1.tvMode = 0 → s.cfg2.sptype < 8 →
      (s.cfg2.crmd = 3 ∨
        ∃ L, L ≠ .sprite ∧ s.cfg2.enabled L = true ∧
          (s.cfg2.chcn L ∈ [5, 6, 7] ∨ (s.cfg2.bmen L = false ∧ s.cfg2.plsz L = 2))) →
      phaseEvent s = .refused .backgroundConfig)

/-! ### Reset -/

/-- A soft reset answers in every state: registers, latches, the RenderContext, the configuration, the timing and the
line buffers take their reset values, the accumulators those of a frame initialised from a zero configuration, row 0
of a fresh 320 by 224 frame is the constant, and the memories and the two lists are kept (70_reset_and_hazards.md
rules R482, R483, R484; the number of the fresh frame and what is kept beside the spec's state are the model's,
assumption logs 5 and 10). -/
def Obligations.SoftResetKeepsTheMemories : Prop :=
  ∀ s : State, ∃ t, softReset s = .next t ∧
    t.mem = s.mem ∧ t.out = s.out ∧ t.diag = s.diag ∧
    t.reg1 =
      { vblankErase := 0, tvMode := 0, fbSwapMode := 0, fbSwapTrigger := 0, plotTrigger := 0, eraseFill := 0,
        eraseX1 := 0, eraseY1 := 0, eraseX3 := 0, eraseY3 := 0, cef := 0, bef := 0 } ∧
    t.fbc = { manualSwap := false, manualErase := false, drawIndex := false } ∧
    t.ctx =
      { rendering := false, cmdAddr := 0, retValid := false, retAddr := 0, sysClipH := 511, sysClipV := 255,
        userClipX0 := 0, userClipY0 := 0, userClipX1 := 511, userClipY1 := 255, localX := 0, localY := 0,
        drawCalls := 0 } ∧
    t.timing =
      { hphase := .active, vphase := .active, vcnt := 0, actHRES := 0, actVRES := 0, actLSMD := 0,
        resPending := false, periphDone := false } ∧
    (∀ k, fieldWidth k ≠ none → (memRead16 t .reg2 (2 * k)).2 = 0) ∧
    t.acc = frameInitAcc [] s.mem Accumulators.reset ∧ t.acc.lineColor = ⟨0, 0, 0⟩ ∧ t.acc.backColor = ⟨0, 0, 0⟩ ∧
    t.buf = State.reset.buf ∧
    t.outFrame.width = 320 ∧ t.outFrame.height = 224 ∧ (∀ x, x < 320 → t.outFrame.pixel x 0 = 0xFF000000) ∧
    t.params = s.params ∧ t.sched = s.sched ∧ t.tick = s.tick

/-- A hard reset also fills the memories, each byte of VRAM1, VRAM2 and CRAM with the pattern's: the listed one of the
parameters, else that of the default pattern; both framebuffers with 0. With the default pattern every word of VRAM1 at
a multiple of 0x20 is 0x8000 and every other one 0x5555, and VRAM2 and CRAM are 0 (70_reset_and_hazards.md rules R481,
R483; the pattern is a parameter, 10_state.md rule R26, held as the model holds it, assumption log 3). -/
def Obligations.HardResetFillsTheMemories : Prop :=
  ∀ s : State, ∃ t, hardReset s = .next t ∧
    (∀ a, a < 0x80000 →
      t.mem.read8 .vram1 a =
        (lookupCell s.params.fillVram1 a).getD (if a % 32 = 0 then 0x80 else if a % 32 = 1 then 0x00 else 0x55)) ∧
    (∀ a, a < 0x80000 → t.mem.read8 .vram2 a = (lookupCell s.params.fillVram2 a).getD 0) ∧
    (∀ a, a < 0x1000 → t.mem.read8 .cram a = (lookupCell s.params.fillCram a).getD 0) ∧
    (∀ a, t.mem.read8 .fb0 a = 0 ∧ t.mem.read8 .fb1 a = 0) ∧
    (s.params = Config.defaultParams →
      (∀ a, a < 0x80000 → a % 2 = 0 → t.mem.read16 .vram1 a = if a % 0x20 = 0 then 0x8000 else 0x5555) ∧
      ∀ a, t.mem.read8 .vram2 a = 0 ∧ t.mem.read8 .cram a = 0) ∧
    t.acc = frameInitAcc [] t.mem Accumulators.reset ∧ t.out = s.out ∧ t.diag = s.diag ∧
    ∀ u, softReset s = .next u →
      t.reg1 = u.reg1 ∧ t.fbc = u.fbc ∧ t.ctx = u.ctx ∧ t.timing = u.timing ∧ t.cfg2 = u.cfg2 ∧ t.buf = u.buf ∧
        t.outFrame = u.outFrame

/-- The state after reset is legal, and it is what a hard reset leaves, up to the number of the fresh frame
(70_reset_and_hazards.md rules R480, R481; the parameters of `State.reset` are those of assumption log 3, the number of
the frame that of log 5, and that `rotCoord` has MAX_OUT_W entries is read from the spec by inference, log 16). -/
def Obligations.ResetStateIsLegal : Prop :=
  State.reset.Legal ∧ State.reset.admitted = true ∧
    hardReset State.reset =
      .next { State.reset with outFrame := { State.reset.outFrame with fresh := 1 }, freshCount := 2 }

/-! ### The background renderer -/

/-- What stands in the buffers after a line: the sprite layer and its attributes from the displayed word, the window
sets of every slot, of colour calculation and of the rotation parameters, and for each background slot the transparent
pixel where it is off or masked, else its scroll dot or its rotation dot (43_display_timing.md rule R296;
44_background.md rules R320, R328, R346, R367; 45_compositor.md rule R402). -/
def Obligations.EveryLayerOfALineIsRendered : Prop :=
  ∀ (s : State) (y x : Nat), x < s.timing.outW →
    let c := s.cfg2
    let a := lineAcc s y
    let b := lineBuffers s y
    let word := s.fbReadDisplay (x / (if s.timing.actHRES.getLsbD 1 then 2 else 1) : Nat) y
    let set (ws : BitVec 7) : Bool :=
      evalWindowSet ws (insideWindow s.mem c.window0 y x) (insideWindow s.mem c.window1 y x)
        (c.spwinen && (b.sprite x).shadowOrWindow)
    b.sprite x = spriteAttributes c s.mem word ∧
    b.dot .sprite x =
      { spriteLayerDot c s.mem word with
        transparent := (spriteLayerDot c s.mem word).transparent || b.masked .sprite x } ∧
    (∀ L, b.masked L x = set (c.wctl L)) ∧
    b.winCC.getD x false = set c.ccwctl ∧
    b.winRP.getD x false = set c.rpwctl ∧
    ∀ L, L ≠ .sprite →
      (c.enabled L = false ∨ b.masked L x = true → b.dot L x = ⟨⟨0, 0, 0⟩, true, 0, false⟩) ∧
      (c.enabled L = true → c.isRotation L = false → b.masked L x = false → b.dot L x = scrollDot c s.mem a L x) ∧
      (c.enabled L = true → c.isRotation L = true →
        let xm := mosaicX c L x
        let P := paramSetOf c s.mem a L (b.winRP.getD x false) xm
        let rc := rotCoordAt c s.mem a P xm
        (L = .rbg0 → b.rotCoord1.getD x RotCoord.clear = rc) ∧
        (L = .nbg0 → b.rotCoord2.getD x RotCoord.clear = rc) ∧
        (b.masked L x = false →
          b.dot L x = if rc.transparent then ⟨⟨0, 0, 0⟩, true, 0, false⟩ else rotDot c s.mem L P rc.sx rc.sy))

/-- A window is the rectangle of its registers, its columns read from the line table where that is enabled, and empty
where a start lies after its end. A window set is masked where any enabled source, or with LOG set all of them,
counts; one without an enabled source masks nothing (44_background.md rules R344, R345; 30_encoding.md rule R133;
10_state.md rules R59, R60). -/
def Obligations.WindowSetsCombineTheirSources : Prop :=
  (∀ (c : Cfg2) (m : Arena) (y x : Nat),
    let t0 := (c.w0LwtaHi * 0x10000 + c.w0LwtaLo) / 2 * 2 + 4 * y
    let t1 := (c.w1LwtaHi * 0x10000 + c.w1LwtaLo) / 2 * 2 + 4 * y
    let start0 := if c.w0Lwe then (m.read16 .vram2 t0).toNat % 1024 else c.w0Sx
    let end0 := if c.w0Lwe then (m.read16 .vram2 (t0 + 2)).toNat % 1024 else c.w0Ex
    let start1 := if c.w1Lwe then (m.read16 .vram2 t1).toNat % 1024 else c.w1Sx
    let end1 := if c.w1Lwe then (m.read16 .vram2 (t1 + 2)).toNat % 1024 else c.w1Ex
    (insideWindow m c.window0 y x = true ↔ c.w0Sy ≤ y ∧ y ≤ c.w0Ey ∧ start0 ≤ x ∧ x ≤ end0) ∧
    (insideWindow m c.window1 y x = true ↔ c.w1Sy ≤ y ∧ y ≤ c.w1Ey ∧ start1 ≤ x ∧ x ≤ end1)) ∧
  ∀ (ws : BitVec 7) (in0 in1 inS : Bool),
    (ws.getLsbD 6 = false →
      (evalWindowSet ws in0 in1 inS = true ↔
        (ws.getLsbD 0 = true ∧ in0 ≠ ws.getLsbD 1) ∨ (ws.getLsbD 2 = true ∧ in1 ≠ ws.getLsbD 3) ∨
          (ws.getLsbD 4 = true ∧ inS ≠ ws.getLsbD 5))) ∧
    (ws.getLsbD 6 = true →
      (evalWindowSet ws in0 in1 inS = true ↔
        (ws.getLsbD 0 = true ∨ ws.getLsbD 2 = true ∨ ws.getLsbD 4 = true) ∧
          (ws.getLsbD 0 = true → in0 ≠ ws.getLsbD 1) ∧ (ws.getLsbD 2 = true → in1 ≠ ws.getLsbD 3) ∧
          (ws.getLsbD 4 = true → inS ≠ ws.getLsbD 5)))

/-- Colour memory entries in the three modes, and what a dot decodes to: its colour, whether it is transparent, its
priority and whether it may blend, in the five colour formats (30_encoding.md rule R129; 44_background.md rules R335 to
R338). -/
def Obligations.DotsDecodeByTheirFormat : Prop :=
  (∀ (c : Cfg2) (m : Arena) (i : Nat),
    (∀ n, (c.crmd = 0 ∧ n = 1024) ∨ (c.crmd = 1 ∧ n = 2048) →
      let e := m.read16 .cram (i % n * 2)
      (cramEntry c m i).1.r.toNat = e.toNat % 32 * 8 ∧ (cramEntry c m i).1.g.toNat = e.toNat / 32 % 32 * 8 ∧
        (cramEntry c m i).1.b.toNat = e.toNat / 1024 % 32 * 8 ∧ (cramEntry c m i).2 = e.getLsbD 15) ∧
    (c.crmd = 2 →
      let e := m.read32 .cram (i % 1024 * 4)
      (cramEntry c m i).1.r.toNat = e.toNat % 256 ∧ (cramEntry c m i).1.g.toNat = e.toNat / 256 % 256 ∧
        (cramEntry c m i).1.b.toNat = e.toNat / 65536 % 256 ∧ (cramEntry c m i).2 = e.getLsbD 31)) ∧
  ∀ (c : Cfg2) (m : Arena) (L : Slot) (dot pal : Nat) (spr scc : Bool),
    let p := decodeDot c m L dot pal spr scc
    let matched := decide (c.chcn L < 3 ∧ (if c.sfsel L then c.sfcodeB else c.sfcodeA) / 2 ^ (dot % 16 / 2) % 2 = 1)
    (∀ i, (c.chcn L = 0 ∧ dot < 16 ∧ i = pal * 16 + dot) ∨ (c.chcn L = 1 ∧ dot < 256 ∧ i = pal / 16 % 8 * 256 + dot) ∨
        (c.chcn L = 2 ∧ i = dot) →
      p.color = (cramEntry c m (i + c.caos L * 256)).1 ∧ p.transparent = (c.tpen L && decide (dot = 0)) ∧
        (c.sccm L = 3 → p.specialColorCalc = (cramEntry c m (i + c.caos L * 256)).2)) ∧
    (c.chcn L = 3 → dot < 2 ^ 16 →
      p.color.r.toNat = dot % 32 * 8 ∧ p.color.g.toNat = dot / 32 % 32 * 8 ∧ p.color.b.toNat = dot / 1024 % 32 * 8 ∧
        p.transparent = (c.tpen L && decide (dot < 2 ^ 15)) ∧
        (c.sccm L = 3 → p.specialColorCalc = decide (2 ^ 15 ≤ dot))) ∧
    (c.chcn L = 4 → dot < 2 ^ 32 →
      p.color.r.toNat = dot % 256 ∧ p.color.g.toNat = dot / 256 % 256 ∧ p.color.b.toNat = dot / 65536 % 256 ∧
        p.transparent = (c.tpen L && decide (dot < 2 ^ 31)) ∧
        (c.sccm L = 3 → p.specialColorCalc = decide (2 ^ 31 ≤ dot))) ∧
    (c.sprm L = 0 ∨ c.sprm L = 3 → p.priority = c.prin L) ∧
    (c.sprm L = 1 → p.priority.toNat = (c.prin L).toNat / 2 * 2 + spr.toNat) ∧
    (c.sprm L = 2 → p.priority.toNat = (c.prin L).toNat / 2 * 2 + (spr && matched).toNat) ∧
    (c.sccm L = 0 → p.specialColorCalc = true) ∧
    (c.sccm L = 1 → p.specialColorCalc = scc) ∧
    (c.sccm L = 2 → p.specialColorCalc = (scc && matched))

/-- Where a dot is fetched from: a map repeats in both directions, its plane, page and character give the pattern
name, the pattern name with its flips the cell and the dot in it, a bitmap its own dot modulo its size; and the
packing of dots in the five colour formats (44_background.md rules R330, R331, R333; 30_encoding.md rules R127, R128,
R130). -/
def Obligations.TilesAndBitmapsAddressTheirDots : Prop :=
  (∀ (m : Arena) (base n : Nat),
    packedDot m 0 base n =
      (if n % 2 = 0 then (m.read8 .vram2 (base + n / 2)).toNat / 16 else (m.read8 .vram2 (base + n / 2)).toNat % 16) ∧
    packedDot m 1 base n = (m.read8 .vram2 (base + n)).toNat ∧
    packedDot m 2 base n = (m.read16 .vram2 (base + n * 2)).toNat % 2048 ∧
    packedDot m 3 base n = (m.read16 .vram2 (base + n * 2)).toNat ∧
    packedDot m 4 base n = (m.read32 .vram2 (base + n * 4)).toNat) ∧
  (∀ (c : Cfg2) (m : Arena) (L : Slot) (pn : Long) (cx cy cellSize : Nat),
    let cd := if c.chsz L then 16 else 8
    let x := if pn.getLsbD 30 then cd - 1 - cx else cx
    let y := if pn.getLsbD 31 then cd - 1 - cy else cy
    (c.chcn L, cellSize) ∈ [(0, 32), (1, 64), (2, 128), (3, 128), (4, 256)] → cx < cd → cy < cd →
      charDot c m L pn cx cy =
        decodeDot c m L
          (packedDot m (c.chcn L) ((pn.toNat % 0x8000 * 0x20 + (y / 8 * 2 + x / 8) * cellSize) % 0x80000)
            (y % 8 * 8 + x % 8))
          (pn.toNat / 0x10000 % 0x80) (pn.getLsbD 29) (pn.getLsbD 28)) ∧
  (∀ (c : Cfg2) (m : Arena) (L : Slot) (sx sy : Int) (n X Y : Nat),
    let pw := if c.plsz L % 2 = 1 then 2 else 1
    let ph := if c.plsz L / 2 = 1 then 2 else 1
    let cd := if c.chsz L then 16 else 8
    0 < n → (X : Int) = sx % ((512 * pw * n : Nat) : Int) → (Y : Int) = sy % ((512 * ph * n : Nat) : Int) →
      let px := X % (512 * pw)
      let py := Y % (512 * ph)
      let name :=
        (c.plane L (Y / (512 * ph) * n + X / (512 * pw)) * 0x1000 +
            (py / 512 * pw + px / 512) * (512 / cd * (512 / cd) * 4) +
            (py % 512 / cd * (512 / cd) + px % 512 / cd) * 4) % 0x80000
      tileDot c m L sx sy n = charDot c m L (m.read32 .vram2 name) (px % 512 % cd) (py % 512 % cd) ∧
        ∀ i j : Int,
          tileDot c m L (sx + i * (512 * pw * n : Nat)) (sy + j * (512 * ph * n : Nat)) n = tileDot c m L sx sy n) ∧
  ∀ (c : Cfg2) (m : Arena) (L : Slot) (sx sy : Int) (bw bh X Y : Nat),
    (c.bmsz L, bw, bh) ∈ [(0, 512, 256), (1, 512, 512), (2, 1024, 256), (3, 1024, 512)] →
      (X : Int) = sx % (bw : Int) → (Y : Int) = sy % (bh : Int) →
      bitmapDot c m L sx sy =
        decodeDot c m L (packedDot m (c.chcn L) (c.bmbase L * 0x20000) (Y * bw + X)) (c.bmpal L * 16) (c.bmspr L)
          (c.bmscc L)

/-- The scrollable layers: the accumulators at line 0, the line scroll record read on its lines, the vertical cell
scroll, the mosaic, and the dot shown, which on plain settings is that of the pixel's own position; and the back and
line colours (44_background.md rules R322, R323, R324, R325, R328, R340, R380; 30_encoding.md rules R131, R132, R134;
10_state.md rules R59, R61). -/
def Obligations.ScrollLayersFollowTheirTables : Prop :=
  (∀ (c : Cfg2) (m : Arena) (a : Accumulators),
    (∀ L ∈ [Slot.nbg0, .nbg1, .nbg2, .nbg3],
      (frameInitAcc c m a).scroll L =
        { fracY := 0, lsAddr := BitVec.ofNat 19 ((c.lstaHi L * 0x10000 + c.lstaLo L) / 2 * 2), lsX := 0, lsY := 0,
          lzX := c.zmx L }) ∧
    (frameInitAcc c m a).lineColor = a.lineColor ∧ (frameInitAcc c m a).backColor = a.backColor) ∧
  (∀ (c : Cfg2) (L : Slot), L ∈ [Slot.nbg0, .nbg1, .nbg2, .nbg3] →
    c.enabledScroll L = (c.on L && !(c.on .rbg0 && c.r1on))) ∧
  (∀ (s : State) (y : Nat) (L : Slot), L ∈ [Slot.nbg0, .nbg1, .nbg2, .nbg3] →
    let c := s.cfg2
    let value (a w : Nat) : Int := ((s.mem.read32 .vram2 a).toNat / 256 % 2 ^ w : Nat)
    let o := s.acc.scroll L
    let t := (lineAcc s y).scroll L
    let ctl := (c.lsctl L).toNat
    let due := ctl % 8 ≠ 0 ∧ y % 2 ^ (ctl / 8 % 4) = 0
    let a1 := o.lsAddr.toNat + if ctl % 2 = 1 then 4 else 0
    let a2 := a1 + if ctl / 2 % 2 = 1 then 4 else 0
    let a3 := a2 + if ctl / 4 % 2 = 1 then 4 else 0
    (c.enabledScroll L = false → t = o) ∧
    (c.enabledScroll L = true →
      t.fracY = o.fracY ∧
      t.lsAddr.toNat = (if due then a3 % 0x80000 else o.lsAddr.toNat) ∧
      t.lsX =
        (if ctl % 2 = 1 then (if due then value o.lsAddr.toNat 19 else o.lsX) else 0) ∧
      t.lsY = (if ctl / 2 % 2 = 1 then (if due then value a1 19 else o.lsY) else 0) ∧
      t.lzX = if ctl / 4 % 2 = 1 then (if due then value a2 11 else o.lzX) else c.zmx L)) ∧
  (∀ (s : State) (y : Nat),
    let c := s.cfg2
    let back := (s.mem.read16 .vram2 ((c.bktaHi * 0x10000 + c.bktaLo) / 2 * 2 + 2 * if c.bkclmd then y else 0)).toNat
    let index :=
      (s.mem.read16 .vram2 ((c.lctaHi * 0x10000 + c.lctaLo) / 2 * 2 + 2 * if c.lcclmd then y else 0)).toNat % 2048
    (lineAcc s y).backColor.r.toNat = back % 32 * 8 ∧ (lineAcc s y).backColor.g.toNat = back / 32 % 32 * 8 ∧
      (lineAcc s y).backColor.b.toNat = back / 1024 % 32 * 8 ∧
      (lineAcc s y).lineColor = (cramEntry c s.mem index).1 ∧
      (lineAcc s y).rotA = s.acc.rotA ∧ (lineAcc s y).rotB = s.acc.rotB) ∧
  (∀ (c : Cfg2) (m : Arena) (x : Nat),
    let on (L : Slot) : Bool := (c.lsctl L).getLsbD 5 && c.enabledScroll L
    let entry (i : Nat) : Nat :=
      (m.read32 .vram2 ((c.vcstaHi * 0x10000 + c.vcstaLo) / 2 * 2 + 4 * i)).toNat / 256 % 2 ^ 19
    verticalCellScroll c m .nbg0 x = (if on .nbg0 then entry (if on .nbg1 then x / 8 * 2 else x / 8) else 0) ∧
    verticalCellScroll c m .nbg1 x = (if on .nbg1 then entry (if on .nbg0 then x / 8 * 2 + 1 else x / 8) else 0) ∧
    verticalCellScroll c m .nbg2 x = 0 ∧ verticalCellScroll c m .nbg3 x = 0) ∧
  (∀ (c : Cfg2) (L : Slot) (x : Nat),
    mosaicX c L x = if c.mze L then x / (c.mzszh + 1) * (c.mzszh + 1) else x) ∧
  (∀ (c : Cfg2) (m : Arena) (a : Accumulators) (L : Slot) (x : Nat) (sx sy : Int),
    let xm := mosaicX c L x
    sx = (c.scxI L * 256 + c.scxF L + (a.scroll L).lsX + xm * (a.scroll L).lzX) / 256 →
    sy = (c.scyI L * 256 + c.scyF L + (a.scroll L).fracY + (a.scroll L).lsY + verticalCellScroll c m L xm) / 256 →
      scrollDot c m a L x = if c.bmen L then bitmapDot c m L sx sy else tileDot c m L sx sy 2) ∧
  ∀ (c : Cfg2) (m : Arena) (a : Accumulators) (L : Slot) (x y : Nat),
    c.scx L = 0 → c.scy L = 0 → c.mze L = false → (c.lsctl L).getLsbD 5 = false → a.scroll L = ⟨256 * y, 0, 0, 0, 256⟩ →
      scrollDot c m a L x = if c.bmen L then bitmapDot c m L x y else tileDot c m L x y 2

/-- The rotated layers: the record and the accumulators at line 0, the values of a line, the coefficient of a dot and
where it is not available, the parameter set of a dot, its coordinates, which with the identity parameters are its own
position, and what is shown outside the area (44_background.md rules R360 to R365, R368; 30_encoding.md rules R135,
R136). -/
def Obligations.RotationFollowsItsParameters : Prop :=
  (∀ (c : Cfg2) (m : Arena) (a : Accumulators),
    let base (P : ParamSet) : Nat := (c.rptaHi * 0x10000 + c.rptaLo) / 2 * 2 + if P = .a then 0 else 0x80
    ∀ P, let long (k : Nat) : Int := (m.read32 .vram2 (base P + k)).toInt
      let word (k : Nat) : Int := (m.read16 .vram2 (base P + k)).toInt
      let r := (frameInitAcc c m a).rot P
      r.rp =
        { xst := long 0x00, yst := long 0x04, zst := long 0x08, dXst := long 0x0C, dYst := long 0x10, dX := long 0x14,
          dY := long 0x18, a := long 0x1C, b := long 0x20, c := long 0x24, d := long 0x28, e := long 0x2C,
          f := long 0x30, px := word 0x34, py := word 0x36, pz := word 0x38, cx := word 0x3C, cy := word 0x3E,
          cz := word 0x40, mx := long 0x44, my := long 0x48, kx := long 0x4C, ky := long 0x50,
          kast := ((m.read32 .vram2 (base P + 0x54)).toNat : Int), dKast := long 0x58, dKax := long 0x5C } ∧
      r.xstAcc = r.rp.xst ∧ r.ystAcc = r.rp.yst ∧ r.kaAcc = r.rp.kast) ∧
  (∀ r : RotAcc,
    let p := r.rp
    let mul (u v : Int) : Int := u * v / 65536
    let x := r.xstAcc - p.px * 65536
    let y := r.ystAcc - p.py * 65536
    let z := p.zst - p.pz * 65536
    rotLine r =
      { xsp := mul p.a x + mul p.b y + mul p.c z
        ysp := mul p.d x + mul p.e y + mul p.f z
        xp := p.a * (p.px - p.cx) + p.b * (p.py - p.cy) + p.c * (p.pz - p.cz) + p.cx * 65536 + p.mx
        yp := p.d * (p.px - p.cx) + p.e * (p.py - p.cy) + p.f * (p.pz - p.cz) + p.cy * 65536 + p.my
        dXs := mul p.a p.dX + mul p.b p.dY
        dYs := mul p.d p.dX + mul p.e p.dY }) ∧
  (∀ (c : Cfg2) (m : Arena) (r : RotAcc) (P : ParamSet) (xm a : Nat),
    let id : MemId := if c.crkte then .cram else .vram2
    let n := (r.kaAcc + if c.kdot P then r.rp.dKax * xm else 0) / 65536
    let co := fetchCoefficient c m r P xm
    (a : Int) = (c.ktbase P + n * if c.kdbs P then 2 else 4) % (if c.crkte then 0x1000 else 0x80000) →
      (c.crkte = false ∧ c.rdbs / 4 ^ (a / 0x20000) % 4 ≠ 1 → co.transparent = true) ∧
      (c.crkte = true ∨ c.rdbs / 4 ^ (a / 0x20000) % 4 = 1 →
        (c.kdbs P = false →
          co.transparent = (m.read32 id a).getLsbD 31 ∧
            co.k = ((m.read32 id a).extractLsb' 0 24).toInt * if c.kmd P = 3 then 256 else 1) ∧
        (c.kdbs P = true →
          co.transparent = (m.read16 id a).getLsbD 15 ∧
            co.k = ((m.read16 id a).extractLsb' 0 15).toInt * if c.kmd P = 3 then 16384 else 64))) ∧
  (∀ (c : Cfg2) (m : Arena) (a : Accumulators) (w : Bool) (xm : Nat),
    paramSetOf c m a .nbg0 w xm = .b ∧
    (c.rpmd = 0 → paramSetOf c m a .rbg0 w xm = .a) ∧
    (c.rpmd = 1 → paramSetOf c m a .rbg0 w xm = .b) ∧
    (c.rpmd = 2 →
      (paramSetOf c m a .rbg0 w xm = .b ↔
        c.kte .a = true ∧ (fetchCoefficient c m (a.rot .a) .a xm).transparent = true)) ∧
    (c.rpmd = 3 → (paramSetOf c m a .rbg0 w xm = .b ↔ w = true))) ∧
  (∀ (c : Cfg2) (m : Arena) (a : Accumulators) (P : ParamSet) (xm : Nat),
    let r := a.rot P
    let l := rotLine r
    let co := fetchCoefficient c m r P xm
    let point (kx ky xp : Int) (t : Bool) : RotCoord :=
      { sx := (kx * (l.xsp + l.dXs * xm) / 65536 + xp) / 65536
        sy := (ky * (l.ysp + l.dYs * xm) / 65536 + l.yp) / 65536
        transparent := t }
    (c.kte P = false → rotCoordAt c m a P xm = point r.rp.kx r.rp.ky l.xp false) ∧
    (c.kte P = true →
      (co.transparent = true → rotCoordAt c m a P xm = point r.rp.kx r.rp.ky l.xp true) ∧
      (co.transparent = false →
        (c.kmd P = 0 → rotCoordAt c m a P xm = point co.k co.k l.xp false) ∧
        (c.kmd P = 1 → rotCoordAt c m a P xm = point co.k r.rp.ky l.xp false) ∧
        (c.kmd P = 2 → rotCoordAt c m a P xm = point r.rp.kx co.k l.xp false) ∧
        (c.kmd P = 3 → rotCoordAt c m a P xm = point r.rp.kx r.rp.ky co.k false)))) ∧
  (∀ (c : Cfg2) (m : Arena) (a : Accumulators) (P : ParamSet) (x y : Nat), c.kte P = false →
    a.rot P =
      { rp := { RotRecord.zero with a := 65536, e := 65536, dX := 65536, dYst := 65536, kx := 65536, ky := 65536 }
        xstAcc := 0
        ystAcc := 65536 * y
        kaAcc := 0 } →
    rotCoordAt c m a P x = ⟨x, y, false⟩) ∧
  ∀ (c : Cfg2) (m : Arena) (L : Slot) (P : ParamSet) (sx sy : Int) (aw ah : Nat),
    let pw := if c.plsz L % 2 = 1 then 2 else 1
    let ph := if c.plsz L / 2 = 1 then 2 else 1
    let cd : Int := if c.chsz L then 16 else 8
    let normal := if c.bmen L then bitmapDot c m L sx sy else tileDot c m L sx sy 4
    (c.over P = 3 ∧ aw = 512 ∧ ah = 512) ∨ (c.over P ≠ 3 ∧ c.bmen L = false ∧ aw = 2048 * pw ∧ ah = 2048 * ph) ∨
        (c.over P ≠ 3 ∧ c.bmen L = true ∧
          (c.bmsz L, aw, ah) ∈ [(0, 512, 256), (1, 512, 512), (2, 1024, 256), (3, 1024, 512)]) →
      (0 ≤ sx ∧ sx < aw ∧ 0 ≤ sy ∧ sy < ah → rotDot c m L P sx sy = normal) ∧
      (¬(0 ≤ sx ∧ sx < aw ∧ 0 ≤ sy ∧ sy < ah) →
        (c.over P = 0 → rotDot c m L P sx sy = normal) ∧
        (c.over P = 1 →
          rotDot c m L P sx sy =
            if c.bmen L then normal
            else charDot c m L (BitVec.ofNat 32 (c.ovpn P % 0x8000)) (sx % cd).toNat (sy % cd).toNat) ∧
        (c.over P = 2 ∨ c.over P = 3 → rotDot c m L P sx sy = ⟨⟨0, 0, 0⟩, true, 0, false⟩))

/-- A slot that is not enabled shows nothing on its line; while the two rotation layers are on, slots 3 to 5 are not
enabled whatever their ON fields say and slot 2 is the second rotation layer; otherwise slots 2 to 5 are enabled by
their ON fields, none of them rotated (44_background.md rule R320, 10_state.md rule R61). -/
def Obligations.DisabledSlotsAreTransparent : Prop :=
  (∀ (c : Cfg2) (m : Arena) (a : Accumulators) (w : Nat) (b : LineBuffers) (L : Slot) (x : Nat), c.enabled L = false →
    x < w →
    (backgroundLayer c m a w b L).dot L x =
      { color := ⟨0, 0, 0⟩, transparent := true, priority := 0, specialColorCalc := false }) ∧
  ∀ c : Cfg2,
    (c.enabled .sprite = true ∧ c.enabled .rbg0 = c.on .rbg0 ∧ c.isRotation .rbg0 = true) ∧
    (c.on .rbg0 = true → c.r1on = true →
      c.enabled .nbg1 = false ∧ c.enabled .nbg2 = false ∧ c.enabled .nbg3 = false ∧ c.enabled .nbg0 = true ∧
        c.isRotation .nbg0 = true) ∧
    (c.on .rbg0 = false ∨ c.r1on = false →
      ∀ L ∈ [Slot.nbg0, .nbg1, .nbg2, .nbg3], c.enabled L = c.on L ∧ c.isRotation L = false)

/-! ### The compositor -/

/-- A sprite framebuffer word: its fields in each of the eight types, a missing field 0; a 15-bit RGB pixel where
SPCLMD and bit 15 say so; else the colour, the priority and the attributes of its fields, a dot colour of 0 being
transparent and one of all ones but the last a normal shadow (30_encoding.md rule R126; 45_compositor.md rule R402).
-/
def Obligations.SpriteWordsDecodeByTheirType : Prop :=
  (∀ p : Word,
    let v := p.toNat
    spriteFields 0 p = { sd := false, pr := v / 2 ^ 14, cc := v / 2 ^ 11 % 8, dc := v % 2 ^ 11, dcWidth := 11 } ∧
    spriteFields 1 p = { sd := false, pr := v / 2 ^ 13, cc := v / 2 ^ 11 % 4, dc := v % 2 ^ 11, dcWidth := 11 } ∧
    spriteFields 2 p =
      { sd := p.getLsbD 15, pr := v / 2 ^ 14 % 2, cc := v / 2 ^ 11 % 8, dc := v % 2 ^ 11, dcWidth := 11 } ∧
    spriteFields 3 p =
      { sd := p.getLsbD 15, pr := v / 2 ^ 13 % 4, cc := v / 2 ^ 11 % 4, dc := v % 2 ^ 11, dcWidth := 11 } ∧
    spriteFields 4 p =
      { sd := p.getLsbD 15, pr := v / 2 ^ 13 % 4, cc := v / 2 ^ 10 % 8, dc := v % 2 ^ 10, dcWidth := 10 } ∧
    spriteFields 5 p =
      { sd := p.getLsbD 15, pr := v / 2 ^ 12 % 8, cc := v / 2 ^ 11 % 2, dc := v % 2 ^ 11, dcWidth := 11 } ∧
    spriteFields 6 p =
      { sd := p.getLsbD 15, pr := v / 2 ^ 12 % 8, cc := v / 2 ^ 10 % 4, dc := v % 2 ^ 10, dcWidth := 10 } ∧
    spriteFields 7 p =
      { sd := p.getLsbD 15, pr := v / 2 ^ 12 % 8, cc := v / 2 ^ 9 % 8, dc := v % 2 ^ 9, dcWidth := 9 }) ∧
  ∀ (c : Cfg2) (m : Arena) (p : Word),
    let f := spriteFields c.sptype p
    (c.spclmd = true ∧ p.getLsbD 15 = true →
      (spriteLayerDot c m p).color.r.toNat = p.toNat % 32 * 8 ∧
      (spriteLayerDot c m p).color.g.toNat = p.toNat / 32 % 32 * 8 ∧
      (spriteLayerDot c m p).color.b.toNat = p.toNat / 1024 % 32 * 8 ∧
      (spriteLayerDot c m p).transparent = false ∧ (spriteLayerDot c m p).priority = c.sppri 0 ∧
      (spriteLayerDot c m p).specialColorCalc = true ∧
      spriteAttributes c m p =
        { msbSet := true, colorCalcRatio := 0, shadowOrWindow := false, normalShadow := false }) ∧
    (¬(c.spclmd = true ∧ p.getLsbD 15 = true) →
      spriteLayerDot c m p =
        { color := (cramEntry c m (f.dc + c.caos .sprite * 256)).1, transparent := decide (f.dc = 0),
          priority := c.sppri f.pr, specialColorCalc := true } ∧
      (spriteAttributes c m p).msbSet = (cramEntry c m (f.dc + c.caos .sprite * 256)).2 ∧
      (spriteAttributes c m p).colorCalcRatio.toNat = f.cc ∧
      (spriteAttributes c m p).shadowOrWindow = f.sd ∧
      (spriteAttributes c m p).normalShadow = decide (f.dc + 2 = 2 ^ f.dcWidth))

/-- A slot is a candidate when its entry is not transparent, has a priority other than 0, and is no normal-shadow sprite
pixel. The selection lists every candidate once, by falling priority and equal ones by rising slot number, and then the
back pseudo-layer; so the top entry is a candidate of the highest priority, the lowest slot among equals, and the second
and third follow it in that order (45_compositor.md rules R405, R406, R407). -/
def Obligations.LowestSlotWinsEqualPriority : Prop :=
  ∀ (b : LineBuffers) (x : Nat),
    (∀ L, b.candidate x L = true ↔
      (b.dot L x).transparent = false ∧ (b.dot L x).priority ≠ 0 ∧ (L = .sprite → (b.sprite x).normalShadow = false)) ∧
    (∃ slots : List Slot, b.ranked x = slots.map Entry.slot ++ [.back] ∧ (∀ L, L ∈ slots ↔ b.candidate x L = true) ∧
      slots.Pairwise fun L M =>
        (b.dot M x).priority.toNat < (b.dot L x).priority.toNat ∨
          ((b.dot M x).priority = (b.dot L x).priority ∧ L.number < M.number)) ∧
    (∀ L, (b.ranked x).head? = some (.slot L) →
      b.candidate x L = true ∧
      ∀ M, b.candidate x M = true →
        (b.dot M x).priority.toNat < (b.dot L x).priority.toNat ∨
          ((b.dot M x).priority = (b.dot L x).priority ∧ L.number ≤ M.number)) ∧
    ((b.ranked x).head? = some .back ↔ ∀ L, b.candidate x L = false)

/-- From the selected entries to the output: the attributes of each entry; the top entry is blended exactly when there
is a second, it is enabled and eligible, the colour-calculation window does not mask the pixel and, for the sprite,
its condition holds; the bottom operand takes the third entry and the line colour as configured; the result is halved
where the top entry is shadowed, and offset by the preset of the top entry (45_compositor.md rules R406, R410, R412,
R414, R416, R418, R420). -/
def Obligations.PixelsBlendShadeAndOffset : Prop :=
  (∀ (c : Cfg2) (a : Accumulators) (b : LineBuffers) (x : Nat),
    entryAttrs c a b x (.slot .sprite) =
      { col := (b.dot .sprite x).color, ccen := c.ccen .sprite, ratio := c.spccrt (b.sprite x).colorCalcRatio.toNat,
        scc := true, lcen := c.lcen .sprite, sden := false, coen := c.coen .sprite, cosl := c.cosl .sprite } ∧
    (∀ L, L ≠ .sprite →
      entryAttrs c a b x (.slot L) =
        { col := (b.dot L x).color, ccen := c.ccen L, ratio := c.ccrt L, scc := (b.dot L x).specialColorCalc,
          lcen := c.lcen L, sden := c.sden L, coen := c.coen L, cosl := c.cosl L }) ∧
    entryAttrs c a b x .back =
      { col := a.backColor, ccen := c.bkccen, ratio := c.bkccrt, scc := true, lcen := false, sden := c.bksden,
        coen := c.bkcoen, cosl := c.bkcosl }) ∧
  (∀ (c : Cfg2) (a : Accumulators) (b : LineBuffers) (x : Nat) (top : Entry) (third : Option Entry),
    let ta := entryAttrs c a b x top
    mixColor c a b x top none third = ta.col ∧
    ∀ e : Entry,
      let sa := entryAttrs c a b x e
      let p := (b.dot .sprite x).priority.toNat
      let spriteCondition : Prop :=
        (c.spcccs = 0 ∧ p ≤ c.spccn) ∨ (c.spcccs = 1 ∧ p = c.spccn) ∨ (c.spcccs = 2 ∧ c.spccn ≤ p) ∨
          (c.spcccs = 3 ∧ (b.sprite x).msbSet = true)
      let blend : Prop :=
        ta.ccen = true ∧ ta.scc = true ∧ b.winCC.getD x false = false ∧ (top = .slot .sprite → spriteCondition)
      (¬blend → mixColor c a b x top (some e) third = ta.col) ∧
      (blend → ∃ under bottom : Color,
        (∀ t, third = some t → c.exccen = true → sa.ccen = true →
          under = averageBlend sa.col (entryAttrs c a b x t).col) ∧
        (third = none ∨ c.exccen = false ∨ sa.ccen = false → under = sa.col) ∧
        bottom =
          (if ta.lcen then (if c.lcccen then ratioBlend a.lineColor under c.lcccrt else a.lineColor) else under) ∧
        mixColor c a b x top (some e) third =
          if c.ccmd then addBlend ta.col bottom
          else ratioBlend ta.col bottom (if c.ccrtmd then sa.ratio else ta.ratio))) ∧
  ∀ (c : Cfg2) (a : Accumulators) (b : LineBuffers) (x : Nat) (top : Entry) (rest : List Entry),
    b.ranked x = top :: rest →
      let ta := entryAttrs c a b x top
      let mix := mixColor c a b x top rest[0]? rest[1]?
      let dark := ((b.sprite x).normalShadow || (!c.spwinen && (b.sprite x).shadowOrWindow)) && ta.sden
      let out (v : Byte) (offsetA offsetB : Int) : Int :=
        let sh : Int := if dark then v.toNat / 2 else v.toNat
        if ta.coen then max 0 (min 255 (sh + if ta.cosl then offsetB else offsetA)) else sh
      ((composePixel c a b x).r.toNat : Int) = out mix.r c.coaR c.cobR ∧
      ((composePixel c a b x).g.toNat : Int) = out mix.g c.coaG c.cobG ∧
      ((composePixel c a b x).b.toNat : Int) = out mix.b c.coaB c.cobB

/-- The ratio blend, the saturating sum, the average, the shadow and the colour offset give each channel the number of
their formulas, which lies in 0 .. 255: no channel wraps (45_compositor.md rules R414, R416, R418, R420). -/
def Obligations.ColourArithmeticNeverWraps : Prop :=
  (∀ (p q : Color) (ratio : Nat), ratio ≤ 31 →
    (ratioBlend p q ratio).r.toNat = (p.r.toNat * (31 - ratio) + q.r.toNat * (ratio + 1)) / 32 ∧
    (ratioBlend p q ratio).g.toNat = (p.g.toNat * (31 - ratio) + q.g.toNat * (ratio + 1)) / 32 ∧
    (ratioBlend p q ratio).b.toNat = (p.b.toNat * (31 - ratio) + q.b.toNat * (ratio + 1)) / 32) ∧
  (∀ p q : Color,
    (addBlend p q).r.toNat = min 255 (p.r.toNat + q.r.toNat) ∧
    (addBlend p q).g.toNat = min 255 (p.g.toNat + q.g.toNat) ∧
    (addBlend p q).b.toNat = min 255 (p.b.toNat + q.b.toNat) ∧
    (averageBlend p q).r.toNat = (p.r.toNat + q.r.toNat) / 2 ∧
    (averageBlend p q).g.toNat = (p.g.toNat + q.g.toNat) / 2 ∧
    (averageBlend p q).b.toNat = (p.b.toNat + q.b.toNat) / 2) ∧
  (∀ p : Color,
    (mapChannels (· / 2) p).r.toNat = p.r.toNat / 2 ∧
    (mapChannels (· / 2) p).g.toNat = p.g.toNat / 2 ∧
    (mapChannels (· / 2) p).b.toNat = p.b.toNat / 2) ∧
  ∀ (v : Byte) (o : Int), ((offsetChannel v o).toNat : Int) = max 0 (min 255 (v.toNat + o))

/-! ### Whole machine -/

/-- Every step from a legal state answers a legal state: memories and configuration in canonical form, addresses
multiples of 8, the marks, the pending request, the line counter, the frame and the buffers as the rules have them
(10_state.md rules R31, R32, R62, R67, R70; 30_encoding.md rule R146; 43_display_timing.md rules R286, R295, R298; the
canonical forms are the model's, assumption logs 3 and 7, and that `rotCoord` has MAX_OUT_W entries is read from the
spec by inference, log 16). -/
def Obligations.EveryStepKeepsTheStateLegal : Prop :=
  ∀ s t : State, s.Legal → step s = .next t → t.Legal

/-- The two lists only grow, and no step writes a parameter (10_state.md rules R20, R71). -/
def Obligations.RecordsAreOnlyAppended : Prop :=
  ∀ s t : State, step s = .next t → s.out <+: t.out ∧ s.diag <+: t.diag ∧ t.params = s.params

/-- Only a bus write and a hard reset change VRAM1, VRAM2 or CRAM: no command, no phase event, no soft reset, no read
(20_memory.md rule R80, 10_state.md rule R34, 44_background.md rule R385). -/
def Obligations.OnlyTheBusWritesTheMemories : Prop :=
  ∀ s t : State, step s = .next t →
    (∀ (r : Region) (a : Nat) (w : Width) (v : Long), s.nextInput ≠ .busWrite r a w v) → s.nextInput ≠ .hardReset →
    ∀ id, id = .vram1 ∨ id = .vram2 ∨ id = .cram → ∀ a, t.mem.read8 id a = s.mem.read8 id a

/-- In a configuration the spec admits every step completes (60_exceptions.md rule R450; 93_implementation_defined.md
U6, U7). Where the refusals apply is read from the spec by inference (assumption logs 8, 9), and that a command with
GOUR set completes is the model's choice (log 4). -/
def Obligations.AdmittedStepsComplete : Prop :=
  ∀ s : State, s.admitted = true → ∃ t, step s = .next t

/-- What a command can change: the RenderContext, the draw buffer, CEF and the two lists; it writes no register, no
configuration, no timing and no other memory, and raises no trigger but `SpriteDrawEnd` (60_exceptions.md rule R460). -/
def Obligations.CommandsTouchOnlyTheirOwnState : Prop :=
  ∀ (i : Instr) (s t : State), exec i s = .next t →
    t = { s with mem := t.mem, ctx := t.ctx, reg1 := { s.reg1 with cef := t.reg1.cef }, out := t.out, diag := t.diag } ∧
    (∀ id a, id ≠ s.drawBuffer → t.mem.read8 id a = s.mem.read8 id a) ∧
    (t.out = s.out ∧ t.reg1.cef = s.reg1.cef ∧ t.ctx.rendering = s.ctx.rendering ∨
      t.out = s.out ++ [.trigger .spriteDrawEnd, .drawCallCounters s.ctx.drawCalls] ∧ t.reg1.cef = 1 ∧
        t.ctx.rendering = false)

/-- The processor starts only by a register write or by a phase event's swap, and stops only by a command or a reset
(42_command_processor.md rule R220). -/
def Obligations.RenderingChangesOnlyAsStated : Prop :=
  ∀ s t : State, step s = .next t →
    (s.ctx.rendering = false → t.ctx.rendering = true →
      (∃ a w v, s.nextInput = .busWrite .reg1 a w v) ∨
        ∃ h, s.nextInput = .phaseEvent h ∧ s.timing.vphase = .lastLine ∧ s.reg1.plotTrigger = 2) ∧
    (s.ctx.rendering = true → t.ctx.rendering = false →
      (∃ n, s.nextInput = .commands n) ∨ s.nextInput = .hardReset ∨ s.nextInput = .softReset)

/-- A list of `n` draw commands under jump mode Next followed by a command with the end bit: granted `n + 1` command
steps, the processor stands after `k` of them, up to `n`, at the address of command `k` with `k` draw commands counted,
nothing reported and the rest of the grant next, so each step runs the command at its own address in order; it ends
`Idle` at the last one with the frame marked complete, and has raised exactly one draw-end trigger and counted `n` draw
commands; VRAM1 is as it was
(42_command_processor.md rule R260). That a grant is served one command a step is the model's (assumption log 20), and
so is that a command with GOUR set completes (log 4). -/
def Obligations.DrawListRunsToItsEnd : Prop :=
  ∀ (n : Nat) (s : State) (rest : List Input), s.sched = .commands (n + 1) :: rest → s.ctx.rendering = true →
    s.spriteAdmitted = true → s.ctx.cmdAddr.toNat + 0x20 * n < 0x80000 →
    (∀ k, k < n →
      ∃ opcode ∈ [0x0#16, 0x1#16, 0x2#16, 0x4#16, 0x5#16, 0x6#16],
        s.mem.read16 .vram1 (s.ctx.cmdAddr.toNat + 0x20 * k) &&& 0xF00F = opcode) →
    (s.mem.read16 .vram1 (s.ctx.cmdAddr.toNat + 0x20 * n)).getLsbD 15 = true →
    (∀ k, k ≤ n →
      ∃ u, steps k s = .next u ∧ u.ctx.cmdAddr.toNat = s.ctx.cmdAddr.toNat + 0x20 * k ∧ u.ctx.rendering = true ∧
        u.ctx.drawCalls = s.ctx.drawCalls + k ∧ u.out = s.out ∧ u.sched = .commands (n + 1 - k) :: rest ∧
        ∀ a, u.mem.read8 .vram1 a = s.mem.read8 .vram1 a) ∧
    ∃ t, steps (n + 1) s = .next t ∧ t.ctx.rendering = false ∧ t.reg1.cef = 1 ∧ t.sched = rest ∧
      t.ctx.cmdAddr.toNat = s.ctx.cmdAddr.toNat + 0x20 * n ∧
      t.out = s.out ++ [.trigger .spriteDrawEnd, .drawCallCounters (s.ctx.drawCalls + n)] ∧
      ∀ a, t.mem.read8 .vram1 a = s.mem.read8 .vram1 a
end

