-- ==== Sys2Proof/Laws/Cells.lean ====
section
/-! SUPPORT. Cells in canonical form: read after write, other keys unchanged, the canonical form kept. -/

namespace Sys2Proof.Machine

variable {β : Type}

/-! ### Reading after inserting or removing -/

theorem lookupCell_insertCell_same (m : List (Nat × β)) (a : Nat) (v : β) :
    lookupCell (insertCell m a v) a = some v := by
  induction m with
  | nil => simp [insertCell, lookupCell]
  | cons e rest ih =>
    obtain ⟨k, w⟩ := e
    simp only [insertCell]
    split
    · simp [lookupCell]
    · split
      · simp [lookupCell]
      · have : k ≠ a := fun h => by simp_all
        simp [lookupCell, this, ih]

theorem lookupCell_insertCell_ne (m : List (Nat × β)) {a b : Nat} (v : β) (h : b ≠ a) :
    lookupCell (insertCell m a v) b = lookupCell m b := by
  have h' : a ≠ b := fun e => h e.symm
  induction m with
  | nil => simp [insertCell, lookupCell, h']
  | cons e rest ih =>
    obtain ⟨k, w⟩ := e
    simp only [insertCell]
    split
    · simp [lookupCell, h']
    · split
      · next hk => subst hk; simp [lookupCell, h']
      · simp [lookupCell, ih]

theorem lookupCell_removeCell_same (m : List (Nat × β)) (a : Nat) : lookupCell (removeCell m a) a = none := by
  induction m with
  | nil => rfl
  | cons e rest ih =>
    obtain ⟨k, w⟩ := e
    simp only [removeCell]
    split
    · exact ih
    · next hk => simp [lookupCell, hk, ih]

theorem lookupCell_removeCell_ne (m : List (Nat × β)) {a b : Nat} (h : b ≠ a) :
    lookupCell (removeCell m a) b = lookupCell m b := by
  induction m with
  | nil => rfl
  | cons e rest ih =>
    obtain ⟨k, w⟩ := e
    simp only [removeCell]
    split
    · next hk =>
      have : k ≠ b := fun e => h (e.symm.trans hk)
      simp [lookupCell, this, ih]
    · simp [lookupCell, ih]

variable [DecidableEq β]

/-- A key reads as the value last written to it. -/
@[simp] theorem readCell_writeCell_same (bg : Nat → β) (m : List (Nat × β)) (a : Nat) (v : β) :
    readCell bg (writeCell bg m a v) a = v := by
  unfold writeCell readCell
  split
  · next h => rw [lookupCell_removeCell_same]; exact h.symm
  · rw [lookupCell_insertCell_same]; rfl

/-- A write leaves every other key alone. -/
theorem readCell_writeCell_ne (bg : Nat → β) (m : List (Nat × β)) {a b : Nat} (v : β) (h : b ≠ a) :
    readCell bg (writeCell bg m a v) b = readCell bg m b := by
  unfold writeCell readCell
  split
  · rw [lookupCell_removeCell_ne m h]
  · rw [lookupCell_insertCell_ne m v h]

/-! ### The canonical form -/

omit [DecidableEq β] in
theorem risingFrom_mono {lo lo' : Nat} (h : lo' ≤ lo) {m : List (Nat × β)} (hm : risingFrom lo m = true) :
    risingFrom lo' m = true := by
  cases m with
  | nil => rfl
  | cons e rest =>
    obtain ⟨k, w⟩ := e
    simp only [risingFrom, Bool.and_eq_true, decide_eq_true_eq] at hm ⊢
    exact ⟨by omega, hm.2⟩

omit [DecidableEq β] in
theorem risingFrom_removeCell (m : List (Nat × β)) (a : Nat) :
    ∀ lo, risingFrom lo m = true → risingFrom lo (removeCell m a) = true := by
  induction m with
  | nil => exact fun _ h => h
  | cons e rest ih =>
    obtain ⟨k, w⟩ := e
    intro lo h
    simp only [risingFrom, Bool.and_eq_true, decide_eq_true_eq] at h
    simp only [removeCell]
    split
    · exact risingFrom_mono (by omega) (ih _ h.2)
    · simp [risingFrom, h.1, ih _ h.2]

omit [DecidableEq β] in
theorem risingFrom_insertCell (m : List (Nat × β)) (a : Nat) (v : β) :
    ∀ lo, lo ≤ a → risingFrom lo m = true → risingFrom lo (insertCell m a v) = true := by
  induction m with
  | nil => intro lo h _; simp [insertCell, risingFrom, h]
  | cons e rest ih =>
    obtain ⟨k, w⟩ := e
    intro lo hlo h
    simp only [risingFrom, Bool.and_eq_true, decide_eq_true_eq] at h
    simp only [insertCell]
    split
    · next hk =>
      simp only [risingFrom, Bool.and_eq_true, decide_eq_true_eq]
      exact ⟨hlo, by omega, h.2⟩
    · split
      · next hk => subst hk; simp [risingFrom, hlo, h.2]
      · simp only [risingFrom, Bool.and_eq_true, decide_eq_true_eq]
        exact ⟨h.1, ih _ (by omega) h.2⟩

omit [DecidableEq β] in
theorem mem_removeCell {m : List (Nat × β)} {a : Nat} {e : Nat × β} (h : e ∈ removeCell m a) : e ∈ m := by
  induction m with
  | nil => exact h
  | cons f rest ih =>
    obtain ⟨k, w⟩ := f
    simp only [removeCell] at h
    split at h
    · exact List.mem_cons_of_mem _ (ih h)
    · rcases List.mem_cons.1 h with h | h
      · exact h ▸ List.mem_cons_self
      · exact List.mem_cons_of_mem _ (ih h)

omit [DecidableEq β] in
theorem mem_insertCell {m : List (Nat × β)} {a : Nat} {v : β} {e : Nat × β} (h : e ∈ insertCell m a v) :
    e = (a, v) ∨ e ∈ m := by
  induction m with
  | nil => exact .inl (by simpa [insertCell] using h)
  | cons f rest ih =>
    obtain ⟨k, w⟩ := f
    simp only [insertCell] at h
    split at h
    · simpa using h
    · split at h
      · rcases List.mem_cons.1 h with h | h
        · exact .inl h
        · exact .inr (List.mem_cons_of_mem _ h)
      · rcases List.mem_cons.1 h with h | h
        · exact .inr (h ▸ List.mem_cons_self)
        · exact (ih h).imp id (List.mem_cons_of_mem _)

/-- An entry after a write is the written one or an old one. -/
theorem mem_writeCell {bg : Nat → β} {m : List (Nat × β)} {a : Nat} {v : β} {e : Nat × β}
    (h : e ∈ writeCell bg m a v) : e = (a, v) ∨ e ∈ m := by
  unfold writeCell at h
  split at h
  · exact .inr (mem_removeCell h)
  · exact mem_insertCell h

/-- A write keeps the canonical form. -/
theorem cellsCanonical_writeCell {bg : Nat → β} {m : List (Nat × β)} (a : Nat) (v : β)
    (h : cellsCanonical bg m = true) : cellsCanonical bg (writeCell bg m a v) = true := by
  simp only [cellsCanonical, Bool.and_eq_true, List.all_eq_true, decide_eq_true_eq] at h ⊢
  unfold writeCell
  split
  · exact ⟨risingFrom_removeCell m a 0 h.1, fun e he => h.2 e (mem_removeCell he)⟩
  · next hv =>
    refine ⟨risingFrom_insertCell m a v 0 (Nat.zero_le a) h.1, fun e he => ?_⟩
    rcases mem_insertCell he with rfl | he
    · exact hv
    · exact h.2 e he

end Sys2Proof.Machine
end

