-- ==== Sys2Proof/Laws/Memory.lean ====
section
/-! SUPPORT. The memories: read after write, other bytes unchanged, well-formedness kept, and the same for lists of word
writes and for framebuffer pixels. -/

namespace Sys2Proof.Machine

/-! ### One memory of the arena -/

@[simp] theorem Arena.get_set_same (m : Arena) (id : MemId) (v : Memory) : (m.set id v).get id = v := by
  cases id <;> rfl

theorem Arena.get_set_ne (m : Arena) {id id' : MemId} (v : Memory) (h : id' ≠ id) : (m.set id v).get id' = m.get id' := by
  cases id <;> cases id' <;> first | rfl | exact absurd rfl h

theorem MemId.size_ge_two (id : MemId) : 2 ≤ id.size := by cases id <;> decide

theorem MemId.size_even (id : MemId) : id.size % 2 = 0 := by cases id <;> decide

theorem MemId.size_pos (id : MemId) : 0 < id.size := by have := id.size_ge_two; omega

/-! ### Bytes -/

theorem Arena.read8_congr (m : Arena) (id : MemId) {a b : Nat} (h : a % id.size = b % id.size) :
    m.read8 id a = m.read8 id b := by unfold Arena.read8; rw [h]

theorem Arena.read8_write8_same (m : Arena) (id : MemId) {a b : Nat} (v : Byte) (h : b % id.size = a % id.size) :
    (m.write8 id a v).read8 id b = v := by
  unfold Arena.read8 Arena.write8; rw [Arena.get_set_same, h, readCell_writeCell_same]

theorem Arena.read8_write8_ne (m : Arena) (id : MemId) {a b : Nat} (v : Byte) (h : b % id.size ≠ a % id.size) :
    (m.write8 id a v).read8 id b = m.read8 id b := by
  unfold Arena.read8 Arena.write8; rw [Arena.get_set_same, readCell_writeCell_ne _ _ _ h]

theorem Arena.read8_write8_other (m : Arena) {id id' : MemId} (a b : Nat) (v : Byte) (h : id' ≠ id) :
    (m.write8 id a v).read8 id' b = m.read8 id' b := by
  unfold Arena.read8 Arena.write8; rw [Arena.get_set_ne _ _ h]

theorem Arena.read8_write8 (m : Arena) (id : MemId) (a b : Nat) (v : Byte) :
    (m.write8 id a v).read8 id b = if b % id.size = a % id.size then v else m.read8 id b := by
  split
  · next h => exact m.read8_write8_same id v h
  · next h => exact m.read8_write8_ne id v h

/-! ### Words -/

/-- The two bytes of a word lie at different offsets. -/
theorem MemId.succ_mod_ne (id : MemId) (a : Nat) : (a + 1) % id.size ≠ a % id.size := by
  have h2 := id.size_ge_two
  intro h
  have := Nat.div_add_mod a id.size
  have hlt := Nat.mod_lt a id.size_pos
  rw [Nat.add_mod, Nat.mod_eq_of_lt (show 1 < id.size by omega)] at h
  rcases Nat.lt_or_ge (a % id.size + 1) id.size with hs | hs
  · rw [Nat.mod_eq_of_lt hs] at h; omega
  · rw [Nat.mod_eq_sub_mod hs, Nat.mod_eq_of_lt (by omega)] at h; omega

theorem word_of_halves (v : Word) : v.extractLsb' 8 8 ++ v.extractLsb' 0 8 = v := by
  ext i hi
  simp only [BitVec.getElem_append, BitVec.getElem_extractLsb']
  split
  · next h => simp [BitVec.getLsbD_eq_getElem hi]
  · next h => rw [show 8 + (i - 8) = i by omega, BitVec.getLsbD_eq_getElem hi]

theorem Arena.read8_write16 (m : Arena) (id : MemId) (a b : Nat) (v : Word) :
    (m.write16 id a v).read8 id b =
      if b % id.size = (a + 1) % id.size then v.extractLsb' 0 8
      else if b % id.size = a % id.size then v.extractLsb' 8 8 else m.read8 id b := by
  unfold Arena.write16; rw [Arena.read8_write8, Arena.read8_write8]

theorem Arena.read8_write16_other (m : Arena) {id id' : MemId} (a b : Nat) (v : Word) (h : id' ≠ id) :
    (m.write16 id a v).read8 id' b = m.read8 id' b := by
  unfold Arena.write16; rw [Arena.read8_write8_other _ _ _ _ h, Arena.read8_write8_other _ _ _ _ h]

/-- A word reads as the value last written to it. -/
theorem Arena.read16_write16_same (m : Arena) (id : MemId) {a b : Nat} (v : Word) (h : b % id.size = a % id.size) :
    (m.write16 id a v).read16 id b = v := by
  have h1 : (b + 1) % id.size = (a + 1) % id.size := by rw [Nat.add_mod, h, ← Nat.add_mod]
  have h2 := id.succ_mod_ne a
  unfold Arena.read16
  rw [Arena.read8_write16, Arena.read8_write16, if_neg (by rw [h]; exact fun e => h2 e.symm), if_pos h, if_pos h1,
    word_of_halves]

/-- A word write leaves every other aligned word alone. -/
theorem Arena.read16_write16_ne (m : Arena) (id : MemId) {a b : Nat} (v : Word) (ha : a % 2 = 0) (hb : b % 2 = 0)
    (h : b % id.size ≠ a % id.size) : (m.write16 id a v).read16 id b = m.read16 id b := by
  have hs := id.size_even
  have parity (x : Nat) : x % id.size % 2 = x % 2 := by rw [Nat.mod_mod_of_dvd _ (Nat.dvd_of_mod_eq_zero hs)]
  have e1 : (b + 1) % id.size ≠ a % id.size := fun e => by
    have := parity (b + 1); have := parity a; omega
  have e2 : b % id.size ≠ (a + 1) % id.size := fun e => by
    have := parity (a + 1); have := parity b; omega
  have e3 : (b + 1) % id.size ≠ (a + 1) % id.size := fun e => by
    apply h
    have hlt := Nat.mod_lt a id.size_pos
    have hlb := Nat.mod_lt b id.size_pos
    have h2 := id.size_ge_two
    have pa := parity a; have pb := parity b
    rw [Nat.add_mod b, Nat.add_mod a, Nat.mod_eq_of_lt (show 1 < id.size by omega),
      Nat.mod_eq_of_lt (show b % id.size + 1 < id.size by omega),
      Nat.mod_eq_of_lt (show a % id.size + 1 < id.size by omega)] at e
    omega
  unfold Arena.read16
  rw [Arena.read8_write16, Arena.read8_write16, if_neg e2, if_neg h, if_neg e3, if_neg e1]

theorem Arena.read16_write16_other (m : Arena) {id id' : MemId} (a b : Nat) (v : Word) (h : id' ≠ id) :
    (m.write16 id a v).read16 id' b = m.read16 id' b := by
  unfold Arena.read16; rw [Arena.read8_write16_other _ _ _ _ h, Arena.read8_write16_other _ _ _ _ h]

/-! ### Well-formedness -/

theorem Arena.wf_iff (m : Arena) : m.wf = true ↔ ∀ id, Memory.wf id (m.get id) = true := by
  simp only [Arena.wf, Bool.and_eq_true]
  constructor
  · rintro ⟨⟨⟨⟨h1, h2⟩, h3⟩, h4⟩, h5⟩ id
    cases id <;> assumption
  · exact fun h => ⟨⟨⟨⟨h .vram1, h .fb0⟩, h .fb1⟩, h .vram2⟩, h .cram⟩

theorem Memory.wf_writeCell (id : MemId) {m : Memory} {a : Nat} (v : Byte) (ha : a < id.size)
    (h : Memory.wf id m = true) : Memory.wf id (writeCell (unlistedByte id) m a v) = true := by
  simp only [Memory.wf, Bool.and_eq_true, List.all_eq_true, decide_eq_true_eq] at h ⊢
  refine ⟨cellsCanonical_writeCell a v h.1, fun e he => ?_⟩
  rcases mem_writeCell he with rfl | he
  · exact ha
  · exact h.2 e he

theorem Arena.wf_write8 {m : Arena} (id : MemId) (a : Nat) (v : Byte) (h : m.wf = true) : (m.write8 id a v).wf = true := by
  rw [Arena.wf_iff] at h ⊢
  intro id'
  unfold Arena.write8
  by_cases e : id' = id
  · subst e
    rw [Arena.get_set_same]
    exact Memory.wf_writeCell id' v (Nat.mod_lt _ id'.size_pos) (h id')
  · rw [Arena.get_set_ne _ _ e]; exact h id'

theorem Arena.wf_write16 {m : Arena} (id : MemId) (a : Nat) (v : Word) (h : m.wf = true) :
    (m.write16 id a v).wf = true := Arena.wf_write8 id _ _ (Arena.wf_write8 id _ _ h)

theorem Arena.wf_writeWords (id : MemId) (ws : List (Nat × Word)) :
    ∀ {m : Arena}, m.wf = true → (m.writeWords id ws).wf = true := by
  induction ws with
  | nil => exact fun h => h
  | cons w rest ih => exact fun h => ih (Arena.wf_write16 id w.1 w.2 h)

theorem Arena.wf_writeBytes (id : MemId) (bs : List Byte) :
    ∀ {m : Arena} (a : Nat), m.wf = true → (m.writeBytes id a bs).wf = true := by
  induction bs with
  | nil => exact fun _ h => h
  | cons b rest ih => exact fun a h => ih (a + 1) (Arena.wf_write8 id a b h)

/-! ### Lists of word writes -/

theorem Arena.writeWords_read8_other {id id' : MemId} (h : id' ≠ id) (ws : List (Nat × Word)) (a : Nat) :
    ∀ m : Arena, (m.writeWords id ws).read8 id' a = m.read8 id' a := by
  induction ws with
  | nil => exact fun _ => rfl
  | cons w rest ih => exact fun m => (ih (m.write16 id w.1 w.2)).trans (m.read8_write16_other _ _ _ h)

/-- A memory that no word write is to reads as before, whole. -/
theorem Arena.writeWords_sameBytes_nil (m : Arena) (id : MemId) : m.sameBytes (m.writeWords id []) := fun _ _ => rfl

/-- A byte no write touches reads as before; the offsets written and the byte's lie in the memory. -/
theorem Arena.writeWords_read8_untouched (id : MemId) (ws : List (Nat × Word)) (a : Nat) (ha : a < id.size)
    (hin : ∀ w ∈ ws, w.1 + 1 < id.size) (h : untouched ws a) :
    ∀ m : Arena, (m.writeWords id ws).read8 id a = m.read8 id a := by
  induction ws with
  | nil => exact fun _ => rfl
  | cons w rest ih =>
    intro m
    have hw := hin w List.mem_cons_self
    have ht := h w List.mem_cons_self
    refine (ih (fun w' h' => hin w' (List.mem_cons_of_mem _ h')) (fun w' h' => h w' (List.mem_cons_of_mem _ h'))
      (m.write16 id w.1 w.2)).trans ?_
    rw [Arena.read8_write16, Nat.mod_eq_of_lt ha, Nat.mod_eq_of_lt hw, Nat.mod_eq_of_lt (by omega : w.1 < id.size),
      if_neg ht.2, if_neg ht.1]

theorem lastWrite_nil (o : Nat) : lastWrite [] o = none := rfl

theorem lastWrite_append (ws : List (Nat × Word)) (w : Nat × Word) (o : Nat) :
    lastWrite (ws ++ [w]) o = if w.1 = o then some w.2 else lastWrite ws o := by
  simp only [lastWrite, List.reverse_append, List.reverse_cons, List.reverse_nil, List.nil_append, List.cons_append,
    List.find?_cons]
  split <;> simp_all

/-- An aligned word reads as the last write to it, or as before. -/
theorem Arena.writeWords_read16 (m : Arena) (id : MemId) (ws : List (Nat × Word)) (o : Nat) (ho : o < id.size)
    (ho2 : o % 2 = 0) (hin : ∀ w ∈ ws, w.1 < id.size ∧ w.1 % 2 = 0) :
    (m.writeWords id ws).read16 id o = (lastWrite ws o).getD (m.read16 id o) := by
  induction ws using List.reverseRecOn with
  | nil => rfl
  | append_singleton ws w ih =>
    have hw := hin w (by simp)
    have ih := ih fun w' h' => hin w' (by simp [h'])
    have step : m.writeWords id (ws ++ [w]) = (m.writeWords id ws).write16 id w.1 w.2 := by
      simp [Arena.writeWords, List.foldl_append]
    rw [step, lastWrite_append]
    split
    · next h => subst h; exact Arena.read16_write16_same _ _ _ rfl
    · next h =>
      rw [Arena.read16_write16_ne _ _ _ hw.2 ho2, ih]
      rw [Nat.mod_eq_of_lt ho, Nat.mod_eq_of_lt hw.1]
      exact fun e => h e.symm

/-! ### Framebuffer pixels -/

theorem fbOff_lt (x y : Int) : fbOff x y < Config.fbBytes := by
  unfold fbOff Config.fbBytes
  have := Int.emod_nonneg ((y * 512 + x) * 2) (show (0x40000 : Int) ≠ 0 by decide)
  have := Int.emod_lt_of_pos ((y * 512 + x) * 2) (show (0 : Int) < 0x40000 by decide)
  omega

theorem fbOff_even (x y : Int) : fbOff x y % 2 = 0 := by
  unfold fbOff Config.fbBytes
  have := Int.emod_nonneg ((y * 512 + x) * 2) (show (0x40000 : Int) ≠ 0 by decide)
  have := Int.emod_add_mul_ediv ((y * 512 + x) * 2) 0x40000
  omega

theorem fbOff_onScreen {x y : Nat} (h : onScreen x y) : fbOff x y = (y * 512 + x) * 2 := by
  obtain ⟨hx, hy⟩ := h
  unfold fbOff Config.fbBytes
  have : ((y : Int) * 512 + x) * 2 % (262144 : Nat) = ((y : Int) * 512 + x) * 2 := Int.emod_eq_of_lt (by omega) (by omega)
  rw [this]
  omega

/-- Two positions on the screen with one offset are one position. -/
theorem fbOff_injective {x y x' y' : Nat} (h : onScreen x y) (h' : onScreen x' y') (e : fbOff x y = fbOff x' y') :
    x = x' ∧ y = y' := by
  rw [fbOff_onScreen h, fbOff_onScreen h'] at e
  obtain ⟨hx, hy⟩ := h
  obtain ⟨hx', hy'⟩ := h'
  omega

theorem size_fbOf (b : Bool) : (fbOf b).size = Config.fbBytes := by cases b <;> rfl

/-- The two roles are never one buffer. -/
theorem State.display_ne_draw (s : State) : s.displayBuffer ≠ s.drawBuffer := by
  unfold State.displayBuffer State.drawBuffer
  cases s.fbc.drawIndex <;> decide

theorem State.writesOf_inside (s : State) (pmod : Word) (ps : List Plot) :
    ∀ w ∈ s.writesOf pmod ps, w.1 < Config.fbBytes ∧ w.1 % 2 = 0 := by
  intro w hw
  simp only [State.writesOf, List.mem_map] at hw
  obtain ⟨p, -, rfl⟩ := hw
  exact ⟨fbOff_lt _ _, fbOff_even _ _⟩

/-- Filling pixels is writing words. -/
theorem Arena.fillPixels_eq (m : Arena) (buffer : MemId) (px : List (Nat × Nat)) (v : Word) :
    m.fillPixels buffer px v = m.writeWords buffer (px.map fun p => (fbOff p.1 p.2, v)) := by
  unfold Arena.fillPixels Arena.writeWords
  rw [List.foldl_map]
  rfl

theorem Arena.wf_fillPixels {m : Arena} (buffer : MemId) (px : List (Nat × Nat)) (v : Word) (h : m.wf = true) :
    (m.fillPixels buffer px v).wf = true := by
  rw [Arena.fillPixels_eq]; exact Arena.wf_writeWords buffer _ h

end Sys2Proof.Machine
end

