-- ==== Sys2Proof/Laws/Decode.lean ====
section
/-! SUPPORT. The decoder's cases, the fields of an encoded control word, and the two address computations of the jump
modes. -/

namespace Sys2Proof

/-! ### The decoder's cases -/

theorem decode_of_end {t : CmdTable} (h : t.ctrl.getLsbD 15 = true) : decode t = { op := .endList, jump := none } := by
  simp only [decode, decodeOp, ctrlEnd, h, if_true]

theorem decode_of_skip {t : CmdTable} (h : t.ctrl.getLsbD 15 = false) (h' : t.ctrl.getLsbD 14 = true) :
    decode t = { op := .skip, jump := some (decodeJumpMode t) } := by
  simp only [decode, decodeOp, ctrlEnd, ctrlSkip, h, h', if_true, Bool.false_eq_true, if_false]

theorem decode_of_opcode {t : CmdTable} (h : t.ctrl.getLsbD 15 = false) (h' : t.ctrl.getLsbD 14 = false) :
    decode t = { op := decodeOpcode t, jump := some (decodeJumpMode t) } := by
  simp only [decode, decodeOp, ctrlEnd, ctrlSkip, h, h', Bool.false_eq_true, if_false]

/-- A bit of a word under a mask that has it. -/
theorem getLsbD_of_masked {w mask pat : Word} (i : Nat) (hm : mask.getLsbD i = true) (h : w &&& mask = pat) :
    w.getLsbD i = pat.getLsbD i := by
  rw [← h, BitVec.getLsbD_and, hm, Bool.and_true]

/-- A control word that matches an opcode row has neither the end bit nor the skip bit, and the row's opcode. -/
theorem fields_of_opcodeRow {w : Word} {k : Nat} (hk : k < 16) (h : w &&& 0xC00F = BitVec.ofNat 16 k) :
    w.getLsbD 15 = false ∧ w.getLsbD 14 = false ∧ (ctrlOpcode w).toNat = k := by
  have bit (i : Nat) (hi : (0xC00F : Word).getLsbD i = true) : w.getLsbD i = k.testBit i := by
    rw [getLsbD_of_masked i hi h, BitVec.getLsbD_ofNat]
    have : i < 16 := by
      by_contra hc
      rw [BitVec.getLsbD_of_ge _ _ (by omega)] at hi
      exact absurd hi (by decide)
    simp [this]
  refine ⟨?_, ?_, ?_⟩
  · rw [bit 15 (by decide)]; exact Nat.testBit_lt_two_pow (by omega)
  · rw [bit 14 (by decide)]; exact Nat.testBit_lt_two_pow (by omega)
  · have : ctrlOpcode w = BitVec.ofNat 4 k := by
      apply BitVec.eq_of_getLsbD_eq
      intro i hi
      rw [ctrlOpcode, BitVec.getLsbD_extractLsb', BitVec.getLsbD_ofNat, Nat.zero_add]
      simp only [hi, decide_true, Bool.true_and]
      refine bit i ?_
      have : i = 0 ∨ i = 1 ∨ i = 2 ∨ i = 3 := by omega
      rcases this with rfl | rfl | rfl | rfl <;> decide
    rw [this, BitVec.toNat_ofNat]
    omega

/-! ### The fields of an encoded control word -/

/-- The low part of a concatenation. -/
theorem extractLsb'_append_low {m n : Nat} (x : BitVec m) (y : BitVec n) : (x ++ y).extractLsb' 0 n = y := by
  apply BitVec.eq_of_getLsbD_eq
  intro i hi
  simp only [BitVec.getLsbD_extractLsb', hi, decide_true, Bool.true_and, Nat.zero_add, BitVec.getLsbD_append, if_true]

/-- The high part of a concatenation. -/
theorem extractLsb'_append_high {m n : Nat} (x : BitVec m) (y : BitVec n) : (x ++ y).extractLsb' n m = x := by
  apply BitVec.eq_of_getLsbD_eq
  intro i hi
  simp only [BitVec.getLsbD_extractLsb', hi, decide_true, Bool.true_and, BitVec.getLsbD_append]
  rw [if_neg (by omega), Nat.add_sub_cancel_left]

section
variable (e k : Bool) (jp : BitVec 2) (zp : BitVec 4) (v f : Bool) (opc : BitVec 4)

@[simp] theorem ctrlEnd_ctrlWord : ctrlEnd (ctrlWord e k jp zp v f opc) = e := by
  simp only [ctrlEnd, ctrlWord, BitVec.getLsbD_append, Nat.reduceLT, if_false, Nat.reduceSub,
    BitVec.getLsbD_ofBool, decide_true, Bool.true_and]

@[simp] theorem ctrlSkip_ctrlWord : ctrlSkip (ctrlWord e k jp zp v f opc) = k := by
  simp only [ctrlSkip, ctrlWord, BitVec.getLsbD_append, Nat.reduceLT, if_false, if_true, Nat.reduceSub,
    BitVec.getLsbD_ofBool, decide_true, Bool.true_and]

@[simp] theorem ctrlVflip_ctrlWord : ctrlVflip (ctrlWord e k jp zp v f opc) = v := by
  simp only [ctrlVflip, ctrlWord, BitVec.getLsbD_append, Nat.reduceLT, if_false, if_true, Nat.reduceSub,
    BitVec.getLsbD_ofBool, decide_true, Bool.true_and]

@[simp] theorem ctrlHflip_ctrlWord : ctrlHflip (ctrlWord e k jp zp v f opc) = f := by
  simp only [ctrlHflip, ctrlWord, BitVec.getLsbD_append, Nat.reduceLT, if_false, if_true, Nat.reduceSub,
    BitVec.getLsbD_ofBool, decide_true, Bool.true_and]

@[simp] theorem ctrlOpcode_ctrlWord : ctrlOpcode (ctrlWord e k jp zp v f opc) = opc := extractLsb'_append_low _ opc

@[simp] theorem ctrlZoom_ctrlWord : ctrlZoom (ctrlWord e k jp zp v f opc) = zp := by
  apply BitVec.eq_of_getLsbD_eq
  intro i hi
  have h : i = 0 ∨ i = 1 ∨ i = 2 ∨ i = 3 := by omega
  rcases h with rfl | rfl | rfl | rfl <;> simp only [ctrlZoom, BitVec.getLsbD_extractLsb', hi, decide_true, Bool.true_and, Nat.reduceAdd] <;>
    simp only [ctrlWord, BitVec.getLsbD_append, Nat.reduceLT, if_false, if_true, Nat.reduceSub]

@[simp] theorem ctrlJump_ctrlWord : ctrlJump (ctrlWord e k jp zp v f opc) = jp := by
  apply BitVec.eq_of_getLsbD_eq
  intro i hi
  have h : i = 0 ∨ i = 1 := by omega
  rcases h with rfl | rfl <;> simp only [ctrlJump, BitVec.getLsbD_extractLsb', hi, decide_true, Bool.true_and, Nat.reduceAdd] <;>
    simp only [ctrlWord, BitVec.getLsbD_append, Nat.reduceLT, if_false, if_true, Nat.reduceSub]
end

@[simp] theorem vertexOf_vertexWord (v : Vertex) : vertexOf (vertexWord v.x) (vertexWord v.y) = v := by
  rw [vertexOf, vertexWord, vertexWord, extractLsb'_append_low, extractLsb'_append_low]

@[simp] theorem clipCornerOf_words (c : ClipCorner) : clipCornerOf (clipXWord c.x) (clipYWord c.y) = c := by
  rw [clipCornerOf, clipXWord, clipYWord, extractLsb'_append_low, extractLsb'_append_low]

@[simp] theorem sizeWord_high (w h : BitVec 8) : (w ++ h).extractLsb' 8 8 = w := extractLsb'_append_high w h

@[simp] theorem sizeWord_low (w h : BitVec 8) : (w ++ h).extractLsb' 0 8 = h := extractLsb'_append_low w h

/-! ### Encoding and decoding the two halves of a command -/

/-- The operation is read back, whatever the jump field and LINK are. -/
theorem decodeOp_encodeOp (op : Instr) (jp : BitVec 2) (link : Word) (h : op.isJump = false) :
    decodeOp (encodeOp op jp link) = op := by
  cases op <;> cases h
  all_goals
    simp only [encodeOp, decodeOp, ctrlEnd_ctrlWord, ctrlSkip_ctrlWord, decodeOpcode, ctrlOpcode_ctrlWord, if_true,
      if_false, Bool.false_eq_true, CmdTable.zero, CmdTable.drawOps, CmdTable.texOps, CmdTable.vertexA, CmdTable.vertexB,
      CmdTable.vertexC, CmdTable.vertexD, vertexOf_vertexWord, ctrlVflip_ctrlWord, ctrlHflip_ctrlWord, sizeWord_high,
      sizeWord_low, ctrlZoom_ctrlWord, clipCornerOf_words]
  all_goals rfl

/-- The words that hold the jump mode, of every operation but the end of the list. -/
theorem encodeOp_jumpFields (op : Instr) (jp : BitVec 2) (link : Word) (h : op ≠ .endList) :
    ctrlEnd (encodeOp op jp link).ctrl = false ∧ ctrlJump (encodeOp op jp link).ctrl = jp ∧
      (encodeOp op jp link).link = link := by
  cases op <;>
    first
    | exact absurd rfl h
    | simp only [encodeOp, ctrlEnd_ctrlWord, ctrlJump_ctrlWord, CmdTable.zero, and_self]

/-- A well-formed jump mode is read back from its field and LINK. -/
theorem decodeJumpMode_of_fields (j : Instr) (t : CmdTable) (hj : j.isJump = true) (hw : j.wellFormed = true)
    (h1 : ctrlJump t.ctrl = jumpField j) (h2 : t.link = linkField j) : decodeJumpMode t = j := by
  unfold decodeJumpMode
  rw [h1, h2]
  cases j with
  | jumpNext => rfl
  | jumpAssign link =>
    simp only [Instr.wellFormed, bne_iff_ne] at hw
    show (if link = 0#16 then Instr.jumpAssignZero else .jumpAssign link) = _
    rw [if_neg hw]
  | jumpAssignZero => rfl
  | jumpCall link => rfl
  | jumpReturn => rfl
  | _ => cases hj

/-! ### Tables and bytes -/

theorem wordOfBytes_halves (w : Word) : wordOfBytes (w.extractLsb' 8 8) (w.extractLsb' 0 8) = w :=
  Machine.word_of_halves w

/-- A table is read back from its bytes. -/
theorem tableOfBytes_bytes (t : CmdTable) (rest : List Byte) : tableOfBytes (t.bytes ++ rest) = .ok (t, rest) := by
  simp only [CmdTable.bytes, CmdTable.words, bytesOfWord, List.flatMap_cons, List.flatMap_nil, List.cons_append,
    List.nil_append, tableOfBytes, wordOfBytes_halves]

/-! ### Addresses -/

namespace Machine

theorem nextCommand_eq (c : BitVec 19) : nextCommand c = BitVec.ofNat 19 ((c.toNat + 0x20) % 0x80000) := by
  apply BitVec.eq_of_toNat_eq
  simp [nextCommand]

theorem addressOf_toNat (w : Word) : (addressOf w).toNat = w.toNat * 8 := by
  rw [addressOf, BitVec.toNat_append]
  simp [Nat.shiftLeft_eq]

theorem addressOf_eq (w : Word) : addressOf w = BitVec.ofNat 19 ((w.toNat * 8) % 0x80000) := by
  apply BitVec.eq_of_toNat_eq
  rw [addressOf_toNat, BitVec.toNat_ofNat]
  have := w.isLt
  omega

theorem addressOf_eq_zero (w : Word) : addressOf w = 0 ↔ w = 0 := by
  rw [← BitVec.toNat_inj, addressOf_toNat, ← BitVec.toNat_inj]
  simp

/-- Every address of the jump modes is a multiple of 8 when the command's is (10_state.md rule R31). -/
theorem nextCommand_aligned {c : BitVec 19} (h : c.toNat % 8 = 0) : (nextCommand c).toNat % 8 = 0 := by
  rw [nextCommand_eq, BitVec.toNat_ofNat]; omega

theorem addressOf_aligned (w : Word) : (addressOf w).toNat % 8 = 0 := by rw [addressOf_toNat]; omega

/-- Fetching the command at `cmdAddr` is decoding the bytes there. -/
theorem decodeBytes_commandBytes (s : State) : decodeBytes s.commandBytes = .ok (s.fetchCommand, []) := rfl

end Machine

end Sys2Proof
end

