-- ==== Sys2Proof/Laws/State.lean ====
section
/-! SUPPORT. One lemma for each field of `State` and each named update of the machine: what the update leaves in the
field. -/

namespace Sys2Proof.Machine

variable (s : State)

/-! ### `State.withCtx` -/

@[simp] theorem State.withCtx_params (c : RenderContext) : (s.withCtx c).params = s.params := rfl
@[simp] theorem State.withCtx_mem (c : RenderContext) : (s.withCtx c).mem = s.mem := rfl
@[simp] theorem State.withCtx_reg1 (c : RenderContext) : (s.withCtx c).reg1 = s.reg1 := rfl
@[simp] theorem State.withCtx_fbc (c : RenderContext) : (s.withCtx c).fbc = s.fbc := rfl
@[simp] theorem State.withCtx_ctx (c : RenderContext) : (s.withCtx c).ctx = c := rfl
@[simp] theorem State.withCtx_timing (c : RenderContext) : (s.withCtx c).timing = s.timing := rfl
@[simp] theorem State.withCtx_cfg2 (c : RenderContext) : (s.withCtx c).cfg2 = s.cfg2 := rfl
@[simp] theorem State.withCtx_acc (c : RenderContext) : (s.withCtx c).acc = s.acc := rfl
@[simp] theorem State.withCtx_buf (c : RenderContext) : (s.withCtx c).buf = s.buf := rfl
@[simp] theorem State.withCtx_outFrame (c : RenderContext) : (s.withCtx c).outFrame = s.outFrame := rfl
@[simp] theorem State.withCtx_out (c : RenderContext) : (s.withCtx c).out = s.out := rfl
@[simp] theorem State.withCtx_diag (c : RenderContext) : (s.withCtx c).diag = s.diag := rfl
@[simp] theorem State.withCtx_sched (c : RenderContext) : (s.withCtx c).sched = s.sched := rfl
@[simp] theorem State.withCtx_tick (c : RenderContext) : (s.withCtx c).tick = s.tick := rfl
@[simp] theorem State.withCtx_result (c : RenderContext) : (s.withCtx c).result = s.result := rfl
@[simp] theorem State.withCtx_freshCount (c : RenderContext) : (s.withCtx c).freshCount = s.freshCount := rfl

/-! ### `State.withTiming` -/

@[simp] theorem State.withTiming_params (t : Timing) : (s.withTiming t).params = s.params := rfl
@[simp] theorem State.withTiming_mem (t : Timing) : (s.withTiming t).mem = s.mem := rfl
@[simp] theorem State.withTiming_reg1 (t : Timing) : (s.withTiming t).reg1 = s.reg1 := rfl
@[simp] theorem State.withTiming_fbc (t : Timing) : (s.withTiming t).fbc = s.fbc := rfl
@[simp] theorem State.withTiming_ctx (t : Timing) : (s.withTiming t).ctx = s.ctx := rfl
@[simp] theorem State.withTiming_timing (t : Timing) : (s.withTiming t).timing = t := rfl
@[simp] theorem State.withTiming_cfg2 (t : Timing) : (s.withTiming t).cfg2 = s.cfg2 := rfl
@[simp] theorem State.withTiming_acc (t : Timing) : (s.withTiming t).acc = s.acc := rfl
@[simp] theorem State.withTiming_buf (t : Timing) : (s.withTiming t).buf = s.buf := rfl
@[simp] theorem State.withTiming_outFrame (t : Timing) : (s.withTiming t).outFrame = s.outFrame := rfl
@[simp] theorem State.withTiming_out (t : Timing) : (s.withTiming t).out = s.out := rfl
@[simp] theorem State.withTiming_diag (t : Timing) : (s.withTiming t).diag = s.diag := rfl
@[simp] theorem State.withTiming_sched (t : Timing) : (s.withTiming t).sched = s.sched := rfl
@[simp] theorem State.withTiming_tick (t : Timing) : (s.withTiming t).tick = s.tick := rfl
@[simp] theorem State.withTiming_result (t : Timing) : (s.withTiming t).result = s.result := rfl
@[simp] theorem State.withTiming_freshCount (t : Timing) : (s.withTiming t).freshCount = s.freshCount := rfl

/-! ### `State.withReg1` -/

@[simp] theorem State.withReg1_params (r : Reg1) : (s.withReg1 r).params = s.params := rfl
@[simp] theorem State.withReg1_mem (r : Reg1) : (s.withReg1 r).mem = s.mem := rfl
@[simp] theorem State.withReg1_reg1 (r : Reg1) : (s.withReg1 r).reg1 = r := rfl
@[simp] theorem State.withReg1_fbc (r : Reg1) : (s.withReg1 r).fbc = s.fbc := rfl
@[simp] theorem State.withReg1_ctx (r : Reg1) : (s.withReg1 r).ctx = s.ctx := rfl
@[simp] theorem State.withReg1_timing (r : Reg1) : (s.withReg1 r).timing = s.timing := rfl
@[simp] theorem State.withReg1_cfg2 (r : Reg1) : (s.withReg1 r).cfg2 = s.cfg2 := rfl
@[simp] theorem State.withReg1_acc (r : Reg1) : (s.withReg1 r).acc = s.acc := rfl
@[simp] theorem State.withReg1_buf (r : Reg1) : (s.withReg1 r).buf = s.buf := rfl
@[simp] theorem State.withReg1_outFrame (r : Reg1) : (s.withReg1 r).outFrame = s.outFrame := rfl
@[simp] theorem State.withReg1_out (r : Reg1) : (s.withReg1 r).out = s.out := rfl
@[simp] theorem State.withReg1_diag (r : Reg1) : (s.withReg1 r).diag = s.diag := rfl
@[simp] theorem State.withReg1_sched (r : Reg1) : (s.withReg1 r).sched = s.sched := rfl
@[simp] theorem State.withReg1_tick (r : Reg1) : (s.withReg1 r).tick = s.tick := rfl
@[simp] theorem State.withReg1_result (r : Reg1) : (s.withReg1 r).result = s.result := rfl
@[simp] theorem State.withReg1_freshCount (r : Reg1) : (s.withReg1 r).freshCount = s.freshCount := rfl

/-! ### `State.log` -/

@[simp] theorem State.log_params (r : DiagRecord) : (s.log r).params = s.params := rfl
@[simp] theorem State.log_mem (r : DiagRecord) : (s.log r).mem = s.mem := rfl
@[simp] theorem State.log_reg1 (r : DiagRecord) : (s.log r).reg1 = s.reg1 := rfl
@[simp] theorem State.log_fbc (r : DiagRecord) : (s.log r).fbc = s.fbc := rfl
@[simp] theorem State.log_ctx (r : DiagRecord) : (s.log r).ctx = s.ctx := rfl
@[simp] theorem State.log_timing (r : DiagRecord) : (s.log r).timing = s.timing := rfl
@[simp] theorem State.log_cfg2 (r : DiagRecord) : (s.log r).cfg2 = s.cfg2 := rfl
@[simp] theorem State.log_acc (r : DiagRecord) : (s.log r).acc = s.acc := rfl
@[simp] theorem State.log_buf (r : DiagRecord) : (s.log r).buf = s.buf := rfl
@[simp] theorem State.log_outFrame (r : DiagRecord) : (s.log r).outFrame = s.outFrame := rfl
@[simp] theorem State.log_out (r : DiagRecord) : (s.log r).out = s.out := rfl
@[simp] theorem State.log_diag (r : DiagRecord) : (s.log r).diag = s.diag ++ [r] := rfl
@[simp] theorem State.log_sched (r : DiagRecord) : (s.log r).sched = s.sched := rfl
@[simp] theorem State.log_tick (r : DiagRecord) : (s.log r).tick = s.tick := rfl
@[simp] theorem State.log_result (r : DiagRecord) : (s.log r).result = s.result := rfl
@[simp] theorem State.log_freshCount (r : DiagRecord) : (s.log r).freshCount = s.freshCount := rfl

/-! ### `State.emit` -/

@[simp] theorem State.emit_params (r : OutRecord) : (s.emit r).params = s.params := rfl
@[simp] theorem State.emit_mem (r : OutRecord) : (s.emit r).mem = s.mem := rfl
@[simp] theorem State.emit_reg1 (r : OutRecord) : (s.emit r).reg1 = s.reg1 := rfl
@[simp] theorem State.emit_fbc (r : OutRecord) : (s.emit r).fbc = s.fbc := rfl
@[simp] theorem State.emit_ctx (r : OutRecord) : (s.emit r).ctx = s.ctx := rfl
@[simp] theorem State.emit_timing (r : OutRecord) : (s.emit r).timing = s.timing := rfl
@[simp] theorem State.emit_cfg2 (r : OutRecord) : (s.emit r).cfg2 = s.cfg2 := rfl
@[simp] theorem State.emit_acc (r : OutRecord) : (s.emit r).acc = s.acc := rfl
@[simp] theorem State.emit_buf (r : OutRecord) : (s.emit r).buf = s.buf := rfl
@[simp] theorem State.emit_outFrame (r : OutRecord) : (s.emit r).outFrame = s.outFrame := rfl
@[simp] theorem State.emit_out (r : OutRecord) : (s.emit r).out = s.out ++ [r] := rfl
@[simp] theorem State.emit_diag (r : OutRecord) : (s.emit r).diag = s.diag := rfl
@[simp] theorem State.emit_sched (r : OutRecord) : (s.emit r).sched = s.sched := rfl
@[simp] theorem State.emit_tick (r : OutRecord) : (s.emit r).tick = s.tick := rfl
@[simp] theorem State.emit_result (r : OutRecord) : (s.emit r).result = s.result := rfl
@[simp] theorem State.emit_freshCount (r : OutRecord) : (s.emit r).freshCount = s.freshCount := rfl

/-! ### `State.trigger` -/

@[simp] theorem State.trigger_params (t : Trigger) : (s.trigger t).params = s.params := rfl
@[simp] theorem State.trigger_mem (t : Trigger) : (s.trigger t).mem = s.mem := rfl
@[simp] theorem State.trigger_reg1 (t : Trigger) : (s.trigger t).reg1 = s.reg1 := rfl
@[simp] theorem State.trigger_fbc (t : Trigger) : (s.trigger t).fbc = s.fbc := rfl
@[simp] theorem State.trigger_ctx (t : Trigger) : (s.trigger t).ctx = s.ctx := rfl
@[simp] theorem State.trigger_timing (t : Trigger) : (s.trigger t).timing = s.timing := rfl
@[simp] theorem State.trigger_cfg2 (t : Trigger) : (s.trigger t).cfg2 = s.cfg2 := rfl
@[simp] theorem State.trigger_acc (t : Trigger) : (s.trigger t).acc = s.acc := rfl
@[simp] theorem State.trigger_buf (t : Trigger) : (s.trigger t).buf = s.buf := rfl
@[simp] theorem State.trigger_outFrame (t : Trigger) : (s.trigger t).outFrame = s.outFrame := rfl
@[simp] theorem State.trigger_out (t : Trigger) : (s.trigger t).out = s.out ++ [.trigger t] := rfl
@[simp] theorem State.trigger_diag (t : Trigger) : (s.trigger t).diag = s.diag := rfl
@[simp] theorem State.trigger_sched (t : Trigger) : (s.trigger t).sched = s.sched := rfl
@[simp] theorem State.trigger_tick (t : Trigger) : (s.trigger t).tick = s.tick := rfl
@[simp] theorem State.trigger_result (t : Trigger) : (s.trigger t).result = s.result := rfl
@[simp] theorem State.trigger_freshCount (t : Trigger) : (s.trigger t).freshCount = s.freshCount := rfl

/-! ### `State.pushInput` -/

@[simp] theorem State.pushInput_params (i : Input) : (s.pushInput i).params = s.params := rfl
@[simp] theorem State.pushInput_mem (i : Input) : (s.pushInput i).mem = s.mem := rfl
@[simp] theorem State.pushInput_reg1 (i : Input) : (s.pushInput i).reg1 = s.reg1 := rfl
@[simp] theorem State.pushInput_fbc (i : Input) : (s.pushInput i).fbc = s.fbc := rfl
@[simp] theorem State.pushInput_ctx (i : Input) : (s.pushInput i).ctx = s.ctx := rfl
@[simp] theorem State.pushInput_timing (i : Input) : (s.pushInput i).timing = s.timing := rfl
@[simp] theorem State.pushInput_cfg2 (i : Input) : (s.pushInput i).cfg2 = s.cfg2 := rfl
@[simp] theorem State.pushInput_acc (i : Input) : (s.pushInput i).acc = s.acc := rfl
@[simp] theorem State.pushInput_buf (i : Input) : (s.pushInput i).buf = s.buf := rfl
@[simp] theorem State.pushInput_outFrame (i : Input) : (s.pushInput i).outFrame = s.outFrame := rfl
@[simp] theorem State.pushInput_out (i : Input) : (s.pushInput i).out = s.out := rfl
@[simp] theorem State.pushInput_diag (i : Input) : (s.pushInput i).diag = s.diag := rfl
@[simp] theorem State.pushInput_sched (i : Input) : (s.pushInput i).sched = i :: s.sched := rfl
@[simp] theorem State.pushInput_tick (i : Input) : (s.pushInput i).tick = s.tick := rfl
@[simp] theorem State.pushInput_result (i : Input) : (s.pushInput i).result = s.result := rfl
@[simp] theorem State.pushInput_freshCount (i : Input) : (s.pushInput i).freshCount = s.freshCount := rfl

/-! ### `State.freshFrame` -/

@[simp] theorem State.freshFrame_params (w h : Nat) : (s.freshFrame w h).params = s.params := rfl
@[simp] theorem State.freshFrame_mem (w h : Nat) : (s.freshFrame w h).mem = s.mem := rfl
@[simp] theorem State.freshFrame_reg1 (w h : Nat) : (s.freshFrame w h).reg1 = s.reg1 := rfl
@[simp] theorem State.freshFrame_fbc (w h : Nat) : (s.freshFrame w h).fbc = s.fbc := rfl
@[simp] theorem State.freshFrame_ctx (w h : Nat) : (s.freshFrame w h).ctx = s.ctx := rfl
@[simp] theorem State.freshFrame_timing (w h : Nat) : (s.freshFrame w h).timing = s.timing := rfl
@[simp] theorem State.freshFrame_cfg2 (w h : Nat) : (s.freshFrame w h).cfg2 = s.cfg2 := rfl
@[simp] theorem State.freshFrame_acc (w h : Nat) : (s.freshFrame w h).acc = s.acc := rfl
@[simp] theorem State.freshFrame_buf (w h : Nat) : (s.freshFrame w h).buf = s.buf := rfl
@[simp] theorem State.freshFrame_outFrame (w h : Nat) : (s.freshFrame w h).outFrame = { width := w, height := h, fresh := s.freshCount, rows := [] } :=
    rfl
@[simp] theorem State.freshFrame_out (w h : Nat) : (s.freshFrame w h).out = s.out := rfl
@[simp] theorem State.freshFrame_diag (w h : Nat) : (s.freshFrame w h).diag = s.diag := rfl
@[simp] theorem State.freshFrame_sched (w h : Nat) : (s.freshFrame w h).sched = s.sched := rfl
@[simp] theorem State.freshFrame_tick (w h : Nat) : (s.freshFrame w h).tick = s.tick := rfl
@[simp] theorem State.freshFrame_result (w h : Nat) : (s.freshFrame w h).result = s.result := rfl
@[simp] theorem State.freshFrame_freshCount (w h : Nat) : (s.freshFrame w h).freshCount = s.freshCount + 1 := rfl

/-! ### `State.drawPlots` -/

@[simp] theorem State.drawPlots_params (pmod : Word) (ps : List Plot) : (s.drawPlots pmod ps).params = s.params := rfl
@[simp] theorem State.drawPlots_mem (pmod : Word) (ps : List Plot) : (s.drawPlots pmod ps).mem = s.mem.writeWords s.drawBuffer (s.writesOf pmod ps) :=
    rfl
@[simp] theorem State.drawPlots_reg1 (pmod : Word) (ps : List Plot) : (s.drawPlots pmod ps).reg1 = s.reg1 := rfl
@[simp] theorem State.drawPlots_fbc (pmod : Word) (ps : List Plot) : (s.drawPlots pmod ps).fbc = s.fbc := rfl
@[simp] theorem State.drawPlots_ctx (pmod : Word) (ps : List Plot) : (s.drawPlots pmod ps).ctx = s.ctx := rfl
@[simp] theorem State.drawPlots_timing (pmod : Word) (ps : List Plot) : (s.drawPlots pmod ps).timing = s.timing := rfl
@[simp] theorem State.drawPlots_cfg2 (pmod : Word) (ps : List Plot) : (s.drawPlots pmod ps).cfg2 = s.cfg2 := rfl
@[simp] theorem State.drawPlots_acc (pmod : Word) (ps : List Plot) : (s.drawPlots pmod ps).acc = s.acc := rfl
@[simp] theorem State.drawPlots_buf (pmod : Word) (ps : List Plot) : (s.drawPlots pmod ps).buf = s.buf := rfl
@[simp] theorem State.drawPlots_outFrame (pmod : Word) (ps : List Plot) : (s.drawPlots pmod ps).outFrame = s.outFrame :=
    rfl
@[simp] theorem State.drawPlots_out (pmod : Word) (ps : List Plot) : (s.drawPlots pmod ps).out = s.out := rfl
@[simp] theorem State.drawPlots_diag (pmod : Word) (ps : List Plot) : (s.drawPlots pmod ps).diag = s.diag := rfl
@[simp] theorem State.drawPlots_sched (pmod : Word) (ps : List Plot) : (s.drawPlots pmod ps).sched = s.sched := rfl
@[simp] theorem State.drawPlots_tick (pmod : Word) (ps : List Plot) : (s.drawPlots pmod ps).tick = s.tick := rfl
@[simp] theorem State.drawPlots_result (pmod : Word) (ps : List Plot) : (s.drawPlots pmod ps).result = s.result := rfl
@[simp] theorem State.drawPlots_freshCount (pmod : Word) (ps : List Plot) : (s.drawPlots pmod ps).freshCount = s.freshCount :=
    rfl

/-! ### `State.eraseDisplay` -/

@[simp] theorem State.eraseDisplay_params : (s.eraseDisplay).params = s.params := rfl
@[simp] theorem State.eraseDisplay_mem : (s.eraseDisplay).mem = s.mem.fillPixels s.displayBuffer s.eraseRect.pixels s.reg1.eraseFill :=
    rfl
@[simp] theorem State.eraseDisplay_reg1 : (s.eraseDisplay).reg1 = s.reg1 := rfl
@[simp] theorem State.eraseDisplay_fbc : (s.eraseDisplay).fbc = s.fbc := rfl
@[simp] theorem State.eraseDisplay_ctx : (s.eraseDisplay).ctx = s.ctx := rfl
@[simp] theorem State.eraseDisplay_timing : (s.eraseDisplay).timing = s.timing := rfl
@[simp] theorem State.eraseDisplay_cfg2 : (s.eraseDisplay).cfg2 = s.cfg2 := rfl
@[simp] theorem State.eraseDisplay_acc : (s.eraseDisplay).acc = s.acc := rfl
@[simp] theorem State.eraseDisplay_buf : (s.eraseDisplay).buf = s.buf := rfl
@[simp] theorem State.eraseDisplay_outFrame : (s.eraseDisplay).outFrame = s.outFrame := rfl
@[simp] theorem State.eraseDisplay_out : (s.eraseDisplay).out = s.out := rfl
@[simp] theorem State.eraseDisplay_diag : (s.eraseDisplay).diag = s.diag := rfl
@[simp] theorem State.eraseDisplay_sched : (s.eraseDisplay).sched = s.sched := rfl
@[simp] theorem State.eraseDisplay_tick : (s.eraseDisplay).tick = s.tick := rfl
@[simp] theorem State.eraseDisplay_result : (s.eraseDisplay).result = s.result := rfl
@[simp] theorem State.eraseDisplay_freshCount : (s.eraseDisplay).freshCount = s.freshCount := rfl

/-! ### `State.toggleDraw` -/

@[simp] theorem State.toggleDraw_params : (s.toggleDraw).params = s.params := rfl
@[simp] theorem State.toggleDraw_mem : (s.toggleDraw).mem = s.mem := rfl
@[simp] theorem State.toggleDraw_reg1 : (s.toggleDraw).reg1 = s.reg1 := rfl
@[simp] theorem State.toggleDraw_fbc : (s.toggleDraw).fbc = { s.fbc with drawIndex := !s.fbc.drawIndex } := rfl
@[simp] theorem State.toggleDraw_ctx : (s.toggleDraw).ctx = s.ctx := rfl
@[simp] theorem State.toggleDraw_timing : (s.toggleDraw).timing = s.timing := rfl
@[simp] theorem State.toggleDraw_cfg2 : (s.toggleDraw).cfg2 = s.cfg2 := rfl
@[simp] theorem State.toggleDraw_acc : (s.toggleDraw).acc = s.acc := rfl
@[simp] theorem State.toggleDraw_buf : (s.toggleDraw).buf = s.buf := rfl
@[simp] theorem State.toggleDraw_outFrame : (s.toggleDraw).outFrame = s.outFrame := rfl
@[simp] theorem State.toggleDraw_out : (s.toggleDraw).out = s.out ++ [.bufferSwap] := rfl
@[simp] theorem State.toggleDraw_diag : (s.toggleDraw).diag = s.diag := rfl
@[simp] theorem State.toggleDraw_sched : (s.toggleDraw).sched = s.sched := rfl
@[simp] theorem State.toggleDraw_tick : (s.toggleDraw).tick = s.tick := rfl
@[simp] theorem State.toggleDraw_result : (s.toggleDraw).result = s.result := rfl
@[simp] theorem State.toggleDraw_freshCount : (s.toggleDraw).freshCount = s.freshCount := rfl

/-! ### `State.inVPhase` -/

@[simp] theorem State.inVPhase_params (v : VPhase) : (s.inVPhase v).params = s.params := rfl
@[simp] theorem State.inVPhase_mem (v : VPhase) : (s.inVPhase v).mem = s.mem := rfl
@[simp] theorem State.inVPhase_reg1 (v : VPhase) : (s.inVPhase v).reg1 = s.reg1 := rfl
@[simp] theorem State.inVPhase_fbc (v : VPhase) : (s.inVPhase v).fbc = s.fbc := rfl
@[simp] theorem State.inVPhase_ctx (v : VPhase) : (s.inVPhase v).ctx = s.ctx := rfl
@[simp] theorem State.inVPhase_timing (v : VPhase) : (s.inVPhase v).timing = { s.timing with vphase := v } := rfl
@[simp] theorem State.inVPhase_cfg2 (v : VPhase) : (s.inVPhase v).cfg2 = s.cfg2 := rfl
@[simp] theorem State.inVPhase_acc (v : VPhase) : (s.inVPhase v).acc = s.acc := rfl
@[simp] theorem State.inVPhase_buf (v : VPhase) : (s.inVPhase v).buf = s.buf := rfl
@[simp] theorem State.inVPhase_outFrame (v : VPhase) : (s.inVPhase v).outFrame = s.outFrame := rfl
@[simp] theorem State.inVPhase_out (v : VPhase) : (s.inVPhase v).out = s.out := rfl
@[simp] theorem State.inVPhase_diag (v : VPhase) : (s.inVPhase v).diag = s.diag := rfl
@[simp] theorem State.inVPhase_sched (v : VPhase) : (s.inVPhase v).sched = s.sched := rfl
@[simp] theorem State.inVPhase_tick (v : VPhase) : (s.inVPhase v).tick = s.tick := rfl
@[simp] theorem State.inVPhase_result (v : VPhase) : (s.inVPhase v).result = s.result := rfl
@[simp] theorem State.inVPhase_freshCount (v : VPhase) : (s.inVPhase v).freshCount = s.freshCount := rfl

/-! ### `State.countLine` -/

@[simp] theorem State.countLine_params : (s.countLine).params = s.params := rfl
@[simp] theorem State.countLine_mem : (s.countLine).mem = s.mem := rfl
@[simp] theorem State.countLine_reg1 : (s.countLine).reg1 = s.reg1 := rfl
@[simp] theorem State.countLine_fbc : (s.countLine).fbc = s.fbc := rfl
@[simp] theorem State.countLine_ctx : (s.countLine).ctx = s.ctx := rfl
@[simp] theorem State.countLine_timing : (s.countLine).timing = { s.timing with vcnt := s.timing.vcnt + 1 } := rfl
@[simp] theorem State.countLine_cfg2 : (s.countLine).cfg2 = s.cfg2 := rfl
@[simp] theorem State.countLine_acc : (s.countLine).acc = s.acc := rfl
@[simp] theorem State.countLine_buf : (s.countLine).buf = s.buf := rfl
@[simp] theorem State.countLine_outFrame : (s.countLine).outFrame = s.outFrame := rfl
@[simp] theorem State.countLine_out : (s.countLine).out = s.out := rfl
@[simp] theorem State.countLine_diag : (s.countLine).diag = s.diag := rfl
@[simp] theorem State.countLine_sched : (s.countLine).sched = s.sched := rfl
@[simp] theorem State.countLine_tick : (s.countLine).tick = s.tick := rfl
@[simp] theorem State.countLine_result : (s.countLine).result = s.result := rfl
@[simp] theorem State.countLine_freshCount : (s.countLine).freshCount = s.freshCount := rfl

/-! ### `State.nextPhase` -/

@[simp] theorem State.nextPhase_params : (s.nextPhase).params = s.params := rfl
@[simp] theorem State.nextPhase_mem : (s.nextPhase).mem = s.mem := rfl
@[simp] theorem State.nextPhase_reg1 : (s.nextPhase).reg1 = s.reg1 := rfl
@[simp] theorem State.nextPhase_fbc : (s.nextPhase).fbc = s.fbc := rfl
@[simp] theorem State.nextPhase_ctx : (s.nextPhase).ctx = s.ctx := rfl
@[simp] theorem State.nextPhase_timing : (s.nextPhase).timing = { s.timing with hphase := nextHPhase s.timing.hphase } :=
    rfl
@[simp] theorem State.nextPhase_cfg2 : (s.nextPhase).cfg2 = s.cfg2 := rfl
@[simp] theorem State.nextPhase_acc : (s.nextPhase).acc = s.acc := rfl
@[simp] theorem State.nextPhase_buf : (s.nextPhase).buf = s.buf := rfl
@[simp] theorem State.nextPhase_outFrame : (s.nextPhase).outFrame = s.outFrame := rfl
@[simp] theorem State.nextPhase_out : (s.nextPhase).out = s.out := rfl
@[simp] theorem State.nextPhase_diag : (s.nextPhase).diag = s.diag := rfl
@[simp] theorem State.nextPhase_sched : (s.nextPhase).sched = s.sched := rfl
@[simp] theorem State.nextPhase_tick : (s.nextPhase).tick = s.tick := rfl
@[simp] theorem State.nextPhase_result : (s.nextPhase).result = s.result := rfl
@[simp] theorem State.nextPhase_freshCount : (s.nextPhase).freshCount = s.freshCount := rfl

/-! ### `State.returnCycles` -/

@[simp] theorem State.returnCycles_params : (s.returnCycles).params = s.params := rfl
@[simp] theorem State.returnCycles_mem : (s.returnCycles).mem = s.mem := rfl
@[simp] theorem State.returnCycles_reg1 : (s.returnCycles).reg1 = s.reg1 := rfl
@[simp] theorem State.returnCycles_fbc : (s.returnCycles).fbc = s.fbc := rfl
@[simp] theorem State.returnCycles_ctx : (s.returnCycles).ctx = s.ctx := rfl
@[simp] theorem State.returnCycles_timing : (s.returnCycles).timing = s.timing := rfl
@[simp] theorem State.returnCycles_cfg2 : (s.returnCycles).cfg2 = s.cfg2 := rfl
@[simp] theorem State.returnCycles_acc : (s.returnCycles).acc = s.acc := rfl
@[simp] theorem State.returnCycles_buf : (s.returnCycles).buf = s.buf := rfl
@[simp] theorem State.returnCycles_outFrame : (s.returnCycles).outFrame = s.outFrame := rfl
@[simp] theorem State.returnCycles_out : (s.returnCycles).out = s.out := rfl
@[simp] theorem State.returnCycles_diag : (s.returnCycles).diag = s.diag := rfl
@[simp] theorem State.returnCycles_sched : (s.returnCycles).sched = s.sched := rfl
@[simp] theorem State.returnCycles_tick : (s.returnCycles).tick = s.tick := rfl
@[simp] theorem State.returnCycles_result : (s.returnCycles).result = .cycles (phaseCycles s.ht s.timing.hphase) :=
    rfl
@[simp] theorem State.returnCycles_freshCount : (s.returnCycles).freshCount = s.freshCount := rfl

/-! ### `beginFrame` -/

@[simp] theorem beginFrame_params : (beginFrame s).params = s.params := rfl
@[simp] theorem beginFrame_mem : (beginFrame s).mem = s.mem := rfl
@[simp] theorem beginFrame_reg1 : (beginFrame s).reg1 = s.reg1.startFrame := rfl
@[simp] theorem beginFrame_fbc : (beginFrame s).fbc = s.fbc := rfl
@[simp] theorem beginFrame_ctx : (beginFrame s).ctx = RenderContext.frameStart := rfl
@[simp] theorem beginFrame_timing : (beginFrame s).timing = s.timing := rfl
@[simp] theorem beginFrame_cfg2 : (beginFrame s).cfg2 = s.cfg2 := rfl
@[simp] theorem beginFrame_acc : (beginFrame s).acc = s.acc := rfl
@[simp] theorem beginFrame_buf : (beginFrame s).buf = s.buf := rfl
@[simp] theorem beginFrame_outFrame : (beginFrame s).outFrame = s.outFrame := rfl
@[simp] theorem beginFrame_out : (beginFrame s).out = s.out := rfl
@[simp] theorem beginFrame_diag : (beginFrame s).diag = s.diag := rfl
@[simp] theorem beginFrame_sched : (beginFrame s).sched = s.sched := rfl
@[simp] theorem beginFrame_tick : (beginFrame s).tick = s.tick := rfl
@[simp] theorem beginFrame_result : (beginFrame s).result = s.result := rfl
@[simp] theorem beginFrame_freshCount : (beginFrame s).freshCount = s.freshCount := rfl

/-! ### `endFrame` -/

@[simp] theorem endFrame_params : (endFrame s).params = s.params := rfl
@[simp] theorem endFrame_mem : (endFrame s).mem = s.mem := rfl
@[simp] theorem endFrame_reg1 : (endFrame s).reg1 = s.reg1.completeFrame := rfl
@[simp] theorem endFrame_fbc : (endFrame s).fbc = s.fbc := rfl
@[simp] theorem endFrame_ctx : (endFrame s).ctx = { s.ctx with rendering := false } := rfl
@[simp] theorem endFrame_timing : (endFrame s).timing = s.timing := rfl
@[simp] theorem endFrame_cfg2 : (endFrame s).cfg2 = s.cfg2 := rfl
@[simp] theorem endFrame_acc : (endFrame s).acc = s.acc := rfl
@[simp] theorem endFrame_buf : (endFrame s).buf = s.buf := rfl
@[simp] theorem endFrame_outFrame : (endFrame s).outFrame = s.outFrame := rfl
@[simp] theorem endFrame_out : (endFrame s).out = s.out ++ [.trigger .spriteDrawEnd] ++ [.drawCallCounters s.ctx.drawCalls] :=
    rfl
@[simp] theorem endFrame_diag : (endFrame s).diag = s.diag := rfl
@[simp] theorem endFrame_sched : (endFrame s).sched = s.sched := rfl
@[simp] theorem endFrame_tick : (endFrame s).tick = s.tick := rfl
@[simp] theorem endFrame_result : (endFrame s).result = s.result := rfl
@[simp] theorem endFrame_freshCount : (endFrame s).freshCount = s.freshCount := rfl

/-! ### `frameComplete` -/

@[simp] theorem frameComplete_params : (frameComplete s).params = s.params := rfl
@[simp] theorem frameComplete_mem : (frameComplete s).mem = s.mem := rfl
@[simp] theorem frameComplete_reg1 : (frameComplete s).reg1 = s.reg1 := rfl
@[simp] theorem frameComplete_fbc : (frameComplete s).fbc = s.fbc := rfl
@[simp] theorem frameComplete_ctx : (frameComplete s).ctx = s.ctx := rfl
@[simp] theorem frameComplete_timing : (frameComplete s).timing = s.timing := rfl
@[simp] theorem frameComplete_cfg2 : (frameComplete s).cfg2 = s.cfg2 := rfl
@[simp] theorem frameComplete_acc : (frameComplete s).acc = s.acc := rfl
@[simp] theorem frameComplete_buf : (frameComplete s).buf = s.buf := rfl
@[simp] theorem frameComplete_outFrame : (frameComplete s).outFrame = s.outFrame := rfl
@[simp] theorem frameComplete_out : (frameComplete s).out = s.out ++ [.frameComplete s.outFrame s.timing.outW s.timing.outH] :=
    rfl
@[simp] theorem frameComplete_diag : (frameComplete s).diag = s.diag := rfl
@[simp] theorem frameComplete_sched : (frameComplete s).sched = s.sched := rfl
@[simp] theorem frameComplete_tick : (frameComplete s).tick = s.tick := rfl
@[simp] theorem frameComplete_result : (frameComplete s).result = s.result := rfl
@[simp] theorem frameComplete_freshCount : (frameComplete s).freshCount = s.freshCount := rfl

/-! ### `frameInit` -/

@[simp] theorem frameInit_params : (frameInit s).params = s.params := rfl
@[simp] theorem frameInit_mem : (frameInit s).mem = s.mem := rfl
@[simp] theorem frameInit_reg1 : (frameInit s).reg1 = s.reg1 := rfl
@[simp] theorem frameInit_fbc : (frameInit s).fbc = s.fbc := rfl
@[simp] theorem frameInit_ctx : (frameInit s).ctx = s.ctx := rfl
@[simp] theorem frameInit_timing : (frameInit s).timing = s.timing := rfl
@[simp] theorem frameInit_cfg2 : (frameInit s).cfg2 = s.cfg2 := rfl
@[simp] theorem frameInit_acc : (frameInit s).acc = frameInitAcc s.cfg2 s.mem s.acc := rfl
@[simp] theorem frameInit_buf : (frameInit s).buf = s.buf := rfl
@[simp] theorem frameInit_outFrame : (frameInit s).outFrame = s.outFrame := rfl
@[simp] theorem frameInit_out : (frameInit s).out = s.out := rfl
@[simp] theorem frameInit_diag : (frameInit s).diag = s.diag := rfl
@[simp] theorem frameInit_sched : (frameInit s).sched = s.sched := rfl
@[simp] theorem frameInit_tick : (frameInit s).tick = s.tick := rfl
@[simp] theorem frameInit_result : (frameInit s).result = s.result := rfl
@[simp] theorem frameInit_freshCount : (frameInit s).freshCount = s.freshCount := rfl

/-! ### `enterVActive` -/

@[simp] theorem enterVActive_params : (enterVActive s).params = s.params := rfl
@[simp] theorem enterVActive_mem : (enterVActive s).mem = s.mem := rfl
@[simp] theorem enterVActive_reg1 : (enterVActive s).reg1 = s.reg1 := rfl
@[simp] theorem enterVActive_fbc : (enterVActive s).fbc = s.fbc := rfl
@[simp] theorem enterVActive_ctx : (enterVActive s).ctx = s.ctx := rfl
@[simp] theorem enterVActive_timing : (enterVActive s).timing = { s.timing with vcnt := 0, periphDone := false } :=
    rfl
@[simp] theorem enterVActive_cfg2 : (enterVActive s).cfg2 = s.cfg2 := rfl
@[simp] theorem enterVActive_acc : (enterVActive s).acc = s.acc := rfl
@[simp] theorem enterVActive_buf : (enterVActive s).buf = s.buf := rfl
@[simp] theorem enterVActive_outFrame : (enterVActive s).outFrame = s.outFrame := rfl
@[simp] theorem enterVActive_out : (enterVActive s).out = s.out := rfl
@[simp] theorem enterVActive_diag : (enterVActive s).diag = s.diag := rfl
@[simp] theorem enterVActive_sched : (enterVActive s).sched = s.sched := rfl
@[simp] theorem enterVActive_tick : (enterVActive s).tick = s.tick := rfl
@[simp] theorem enterVActive_result : (enterVActive s).result = s.result := rfl
@[simp] theorem enterVActive_freshCount : (enterVActive s).freshCount = s.freshCount := rfl

/-! ### `enterVLastLine` -/

@[simp] theorem enterVLastLine_params : (enterVLastLine s).params = s.params := rfl
@[simp] theorem enterVLastLine_mem : (enterVLastLine s).mem = s.mem := rfl
@[simp] theorem enterVLastLine_reg1 : (enterVLastLine s).reg1 = s.reg1 := rfl
@[simp] theorem enterVLastLine_fbc : (enterVLastLine s).fbc = s.fbc := rfl
@[simp] theorem enterVLastLine_ctx : (enterVLastLine s).ctx = s.ctx := rfl
@[simp] theorem enterVLastLine_timing : (enterVLastLine s).timing = s.timing := rfl
@[simp] theorem enterVLastLine_cfg2 : (enterVLastLine s).cfg2 = s.cfg2 := rfl
@[simp] theorem enterVLastLine_acc : (enterVLastLine s).acc = s.acc := rfl
@[simp] theorem enterVLastLine_buf : (enterVLastLine s).buf = s.buf := rfl
@[simp] theorem enterVLastLine_outFrame : (enterVLastLine s).outFrame = s.outFrame := rfl
@[simp] theorem enterVLastLine_out : (enterVLastLine s).out = s.out ++ [.trigger .vblankEnd] := rfl
@[simp] theorem enterVLastLine_diag : (enterVLastLine s).diag = s.diag := rfl
@[simp] theorem enterVLastLine_sched : (enterVLastLine s).sched = s.sched := rfl
@[simp] theorem enterVLastLine_tick : (enterVLastLine s).tick = s.tick := rfl
@[simp] theorem enterVLastLine_result : (enterVLastLine s).result = s.result := rfl
@[simp] theorem enterVLastLine_freshCount : (enterVLastLine s).freshCount = s.freshCount := rfl

end Sys2Proof.Machine
end

