-- ==== Sys2Proof/Laws/Ops.lean ====
section
/-! SUPPORT. One lemma for each shared operation, saying once everything it can answer. -/

namespace Sys2Proof.Machine

/-! ### Outcomes -/

@[simp] theorem andThen_next (s : State) (k : State → Host.Outcome State Fault Refusal) : andThen (.next s) k = k s := rfl

@[simp] theorem andThen_refused (r : Refusal) (k : State → Host.Outcome State Fault Refusal) :
    andThen (.refused r) k = .refused r := rfl

/-- A sequence answers a next state exactly when both parts do. -/
theorem andThen_eq_next {o : Host.Outcome State Fault Refusal} {k : State → Host.Outcome State Fault Refusal} {t : State} :
    andThen o k = .next t ↔ ∃ u, o = .next u ∧ k u = .next t := by
  cases o <;> simp [andThen]

/-! ### The sprite mode -/

theorem guardSprite_admitted {s : State} (h : s.spriteAdmitted = true) (k : State → Host.Outcome State Fault Refusal) :
    guardSprite s k = k s := if_pos h

theorem guardSprite_refused {s : State} (h : s.spriteAdmitted = false) (k : State → Host.Outcome State Fault Refusal) :
    guardSprite s k = .refused .spriteMode := by simp [guardSprite, h]

/-- A guarded action answers a next state only in an admitted sprite mode, and then what the action answers. -/
theorem guardSprite_eq_next {s t : State} {k : State → Host.Outcome State Fault Refusal} :
    guardSprite s k = .next t ↔ s.spriteAdmitted = true ∧ k s = .next t := by
  unfold guardSprite; split <;> simp_all

/-- The sprite mode depends on the registers and the configuration alone. -/
theorem spriteAdmitted_congr {s t : State} (h1 : t.reg1.tvMode = s.reg1.tvMode) (h2 : t.cfg2 = s.cfg2) :
    t.spriteAdmitted = s.spriteAdmitted := by simp [State.spriteAdmitted, h1, h2]

/-! ### Frames -/

@[simp] theorem Reg1.startFrame_tvMode (r : Reg1) : r.startFrame.tvMode = r.tvMode := rfl
@[simp] theorem Reg1.completeFrame_tvMode (r : Reg1) : r.completeFrame.tvMode = r.tvMode := rfl
@[simp] theorem Reg1.startFrame_cef (r : Reg1) : r.startFrame.cef = 0#1 := rfl
@[simp] theorem Reg1.startFrame_bef (r : Reg1) : r.startFrame.bef = r.cef := rfl
@[simp] theorem Reg1.completeFrame_cef (r : Reg1) : r.completeFrame.cef = 1#1 := rfl
@[simp] theorem Reg1.completeFrame_bef (r : Reg1) : r.completeFrame.bef = r.bef := rfl

/-- The loop guard is a log and the end of the frame. -/
theorem loopGuard_eq (s : State) :
    loopGuard s =
      { s with
        ctx := { s.ctx with rendering := false }
        reg1 := s.reg1.completeFrame
        out := s.out ++ [.trigger .spriteDrawEnd] ++ [.drawCallCounters s.ctx.drawCalls]
        diag := s.diag ++ [.malformedJump s.ctx.cmdAddr] } := rfl

theorem endFrame_eq (s : State) :
    endFrame s =
      { s with
        ctx := { s.ctx with rendering := false }
        reg1 := s.reg1.completeFrame
        out := s.out ++ [.trigger .spriteDrawEnd] ++ [.drawCallCounters s.ctx.drawCalls] } := rfl

/-! ### The draw prologue -/

/-- The records the prologue logs: one when a PMOD bit is not admitted. -/
def prologueRecords (s : State) (pmod : Word) : List DiagRecord :=
  if pmodUnadmitted pmod then [.unhandledCommand s.ctx.cmdAddr s.ctrlAtCmd pmod] else []

/-- The prologue counts the command and logs; nothing else. -/
theorem beginDraw_eq (s : State) (pmod : Word) :
    beginDraw s pmod =
      { s with ctx := { s.ctx with drawCalls := s.ctx.drawCalls + 1 }, diag := s.diag ++ prologueRecords s pmod } := by
  unfold beginDraw prologueRecords
  split
  · rfl
  · simp

/-- What a draw command answers: the prologue's state with words written to the draw buffer, or with one more record and
no write. -/
theorem drawSolid_admitted {s : State} (h : s.spriteAdmitted = true) (pmod : Word) (ps : List Plot) :
    drawSolid pmod ps s =
      .next
        { s with
          ctx := { s.ctx with drawCalls := s.ctx.drawCalls + 1 }
          diag := s.diag ++ prologueRecords s pmod
          mem := s.mem.writeWords s.drawBuffer (s.writesOf pmod ps) } := by
  rw [drawSolid, guardSprite_admitted h, beginDraw_eq]; rfl

theorem drawTextured_admitted {s : State} (h : s.spriteAdmitted = true) (d : DrawOps) (t : TexOps) (q : Corners) :
    drawTextured d t q s =
      .next
        (if 6 ≤ pmodCM d.pmod then
          { s with
            ctx := { s.ctx with drawCalls := s.ctx.drawCalls + 1 }
            diag := s.diag ++ prologueRecords s d.pmod ++ [.unhandledCommand s.ctx.cmdAddr s.ctrlAtCmd d.pmod] }
        else
          { s with
            ctx := { s.ctx with drawCalls := s.ctx.drawCalls + 1 }
            diag := s.diag ++ prologueRecords s d.pmod
            mem := s.mem.writeWords s.drawBuffer (s.writesOf d.pmod (texturedPlots d t q s)) }) := by
  rw [drawTextured, guardSprite_admitted h, beginDraw_eq]
  split <;> rfl

/-! ### Erase and swap -/

theorem eraseActive_admitted {s : State} (h : s.spriteAdmitted = true) : eraseActive s = .next s.eraseDisplay :=
  guardSprite_admitted h _

theorem eraseActive_eq_next {s t : State} : eraseActive s = .next t ↔ s.spriteAdmitted = true ∧ t = s.eraseDisplay := by
  rw [eraseActive, guardSprite_eq_next, Host.Outcome.next.injEq, eq_comm (a := s.eraseDisplay)]

theorem swap_admitted {s : State} (h : s.spriteAdmitted = true) :
    swap s = .next s.serveManualErase.toggleDraw.restartIfContinuous := guardSprite_admitted h _

theorem swap_eq_next {s t : State} :
    swap s = .next t ↔ s.spriteAdmitted = true ∧ t = s.serveManualErase.toggleDraw.restartIfContinuous := by
  rw [swap, guardSprite_eq_next, Host.Outcome.next.injEq,
    eq_comm (a := s.serveManualErase.toggleDraw.restartIfContinuous)]

/-- The manual erase clears its latch and changes the memories; nothing else. -/
theorem serveManualErase_eq (s : State) :
    s.serveManualErase =
      { s with
        fbc := { s.fbc with manualErase := false }
        mem := if s.fbc.manualErase then s.eraseDisplay.mem else s.mem } := by
  unfold State.serveManualErase
  split
  · rfl
  · next h => simp only [Bool.not_eq_true] at h; rw [← h]

theorem restartIfContinuous_eq (s : State) :
    s.restartIfContinuous =
      { s with
        reg1 := if s.reg1.plotTrigger = 2#2 then s.reg1.startFrame else s.reg1
        ctx := if s.reg1.plotTrigger = 2#2 then RenderContext.frameStart else s.ctx } := by
  unfold State.restartIfContinuous
  split
  · rfl
  · rfl

/-- The erase writes only pixels of the display-role buffer. -/
theorem eraseDisplay_read8_draw (s : State) (a : Nat) :
    s.eraseDisplay.mem.read8 s.drawBuffer a = s.mem.read8 s.drawBuffer a := by
  rw [State.eraseDisplay_mem, Arena.fillPixels_eq]
  exact Arena.writeWords_read8_other s.display_ne_draw.symm _ _ _

/-- The pixels of a rectangle are those it contains. -/
theorem Rect.mem_pixels (r : Rect) (p : Nat × Nat) : p ∈ r.pixels ↔ r.contains p.1 p.2 := by
  obtain ⟨x, y⟩ := p
  simp only [Rect.pixels, Rect.lines, Rect.columns, Rect.contains, List.mem_flatMap, List.mem_map, List.mem_range,
    Prod.mk.injEq]
  constructor
  · rintro ⟨_, ⟨i, hi, rfl⟩, _, ⟨j, hj, rfl⟩, rfl, rfl⟩; omega
  · rintro ⟨h1, h2, h3, h4⟩
    exact ⟨y, ⟨y - r.ys, by omega, by omega⟩, x, ⟨x - r.xs, by omega, by omega⟩, rfl, rfl⟩

/-- Every pixel of the erase rectangle is on the screen. -/
theorem eraseRect_onScreen (s : State) {x y : Nat} (h : s.eraseRect.contains x y) : onScreen x y := by
  obtain ⟨-, h2, -, h4⟩ := h
  simp only [State.eraseRect] at h2 h4
  exact ⟨by omega, by omega⟩

/-! ### Scanlines -/

theorem renderScanline_blank {s : State} (h : s.cfg2.disp = false) (y : Nat) :
    renderScanline s y = .next (renderBlank s y) := by simp [renderScanline, h]

/-- What a scanline answers: the blank row with the display off, the composed line in an admitted configuration with it
on. -/
theorem renderScanline_eq_next {s t : State} {y : Nat} :
    renderScanline s y = .next t ↔
      (s.cfg2.disp = false ∧ t = renderBlank s y) ∨
        (s.cfg2.disp = true ∧ s.spriteAdmitted = true ∧ s.cfg2.backgroundAdmitted = true ∧ t = renderComposed s y) := by
  have comm (u : State) : (Host.Outcome.next u : Host.Outcome State Fault Refusal) = .next t ↔ t = u := by
    rw [Host.Outcome.next.injEq]; exact eq_comm
  unfold renderScanline
  split
  · next h =>
    rw [guardSprite_eq_next]
    split
    · next hb => simp [h, hb, comm]
    · next hb => simp [h, hb]
  · next h => simp [h, comm]

end Sys2Proof.Machine
end

