-- ==== Sys2Proof/Laws/Display.lean ====
section
/-! SUPPORT. The phase event: each entry action in each of its cases, and what a phase event can answer. -/

namespace Sys2Proof.Machine

/-! ### The event -/

theorem phaseEvent_of {s : State} {h : HPhase} (e : s.timing.hphase = h) :
    phaseEvent s = andThen (enterHPhase (nextHPhase h) (s.withTiming { s.timing with hphase := nextHPhase h }))
      fun s1 => .next s1.returnCycles := by subst e; rfl

/-- A phase event answers the entry action's state with the cycle count handed back. -/
theorem phaseEvent_eq_next {s t : State} :
    phaseEvent s = .next t ↔
      ∃ u, enterHPhase (nextHPhase s.timing.hphase) s.nextPhase = .next u ∧ t = u.returnCycles := by
  simp only [phaseEvent, andThen_eq_next, Host.Outcome.next.injEq]
  constructor
  · rintro ⟨u, h, rfl⟩; exact ⟨u, h, rfl⟩
  · rintro ⟨u, h, rfl⟩; exact ⟨u, h, rfl⟩

/-! ### The entry actions, case by case -/

theorem enterHRightBorder_active {s : State} (h : s.timing.vphase = .active) :
    enterHRightBorder s = s.trigger .hblankStart := if_pos h

theorem enterHRightBorder_other {s : State} (h : s.timing.vphase ≠ .active) : enterHRightBorder s = s := if_neg h

theorem swapDue_iff (s : State) : s.swapDue = true ↔ s.reg1.fbSwapMode = 0 ∨ s.fbc.manualSwap = true := by
  simp [State.swapDue]

theorem enterHVBlankOut_due {s : State} (hv : s.timing.vphase = .lastLine)
    (hd : s.reg1.fbSwapMode = 0 ∨ s.fbc.manualSwap = true) :
    enterHVBlankOut s = swap { s with fbc := { s.fbc with manualSwap := false } } :=
  if_pos ⟨hv, (swapDue_iff s).2 hd⟩

theorem enterHVBlankOut_idle {s : State}
    (h : ¬(s.timing.vphase = .lastLine ∧ (s.reg1.fbSwapMode = 0 ∨ s.fbc.manualSwap = true))) :
    enterHVBlankOut s = .next s := if_neg fun hh => h ⟨hh.1, (swapDue_iff s).1 hh.2⟩

theorem eraseDue_iff (s : State) : s.eraseDue = true ↔ s.reg1.vblankErase = 1 ∨ s.reg1.fbSwapMode = 0 := by
  simp [State.eraseDue]

theorem eraseIfConfigured_due {s : State} (h : s.reg1.vblankErase = 1 ∨ s.reg1.fbSwapMode = 0) :
    eraseIfConfigured s = eraseActive s := if_pos ((eraseDue_iff s).2 h)

theorem eraseIfConfigured_idle {s : State} (h : ¬(s.reg1.vblankErase = 1 ∨ s.reg1.fbSwapMode = 0)) :
    eraseIfConfigured s = .next s := if_neg fun hh => h ((eraseDue_iff s).1 hh)

theorem enterVTopBorder_pending {s : State} (h : s.timing.resPending = true) :
    enterVTopBorder s =
      (s.takeResolution.emit (.resolutionChange s.takeResolution.timing.outW s.takeResolution.timing.outH)).freshFrame
        s.takeResolution.timing.outW s.takeResolution.timing.outH := if_pos h

theorem enterVTopBorder_idle {s : State} (h : s.timing.resPending = false) : enterVTopBorder s = s :=
  if_neg (by simp [h])

theorem peripheralCheck_raise {s : State} (hv : s.timing.vphase = .active) (hp : s.timing.periphDone = false)
    (h : s.vt.bottomBorder ≤ s.timing.vcnt + 1) :
    peripheralCheck s = (s.trigger .peripheralRead).withTiming { s.timing with periphDone := true } :=
  if_pos ⟨hv, hp, h⟩

theorem peripheralCheck_idle {s : State}
    (h : s.timing.vphase = .active → s.timing.periphDone = false → s.timing.vcnt + 1 < s.vt.bottomBorder) :
    peripheralCheck s = s := if_neg fun hh => absurd (h hh.1 hh.2.1) (Nat.not_lt.2 hh.2.2)

/-! ### The vertical transition -/

theorem verticalTransition_active_leave {s : State} (hv : s.timing.vphase = .active)
    (h : s.vt.bottomBorder ≤ s.timing.vcnt) :
    verticalTransition s = enterVBottomBorder (s.inVPhase .bottomBorder) := by
  unfold verticalTransition; rw [hv]; exact if_pos h

theorem verticalTransition_active_stay {s : State} (hv : s.timing.vphase = .active)
    (h : s.timing.vcnt < s.vt.bottomBorder) : verticalTransition s = .next s := by
  unfold verticalTransition; rw [hv]; exact if_neg (Nat.not_le.2 h)

theorem verticalTransition_bottom_leave {s : State} (hv : s.timing.vphase = .bottomBorder)
    (h : s.vt.blankingAndSync ≤ s.timing.vcnt) : verticalTransition s = .next (s.inVPhase .blankingAndSync) := by
  unfold verticalTransition; rw [hv]; exact if_pos h

theorem verticalTransition_bottom_stay {s : State} (hv : s.timing.vphase = .bottomBorder)
    (h : s.timing.vcnt < s.vt.blankingAndSync) : verticalTransition s = .next s := by
  unfold verticalTransition; rw [hv]; exact if_neg (Nat.not_le.2 h)

theorem verticalTransition_blanking_leave {s : State} (hv : s.timing.vphase = .blankingAndSync)
    (h : s.vt.topBorder ≤ s.timing.vcnt) : verticalTransition s = .next (enterVTopBorder (s.inVPhase .topBorder)) := by
  unfold verticalTransition; rw [hv]; exact if_pos h

theorem verticalTransition_blanking_stay {s : State} (hv : s.timing.vphase = .blankingAndSync)
    (h : s.timing.vcnt < s.vt.topBorder) : verticalTransition s = .next s := by
  unfold verticalTransition; rw [hv]; exact if_neg (Nat.not_le.2 h)

theorem verticalTransition_top_leave {s : State} (hv : s.timing.vphase = .topBorder)
    (h : s.vt.lastLine ≤ s.timing.vcnt) : verticalTransition s = .next (enterVLastLine (s.inVPhase .lastLine)) := by
  unfold verticalTransition; rw [hv]; exact if_pos h

theorem verticalTransition_top_stay {s : State} (hv : s.timing.vphase = .topBorder)
    (h : s.timing.vcnt < s.vt.lastLine) : verticalTransition s = .next s := by
  unfold verticalTransition; rw [hv]; exact if_neg (Nat.not_le.2 h)

theorem verticalTransition_last_leave {s : State} (hv : s.timing.vphase = .lastLine)
    (h : s.vt.total ≤ s.timing.vcnt) : verticalTransition s = .next (enterVActive (s.inVPhase .active)) := by
  unfold verticalTransition; rw [hv]; exact if_pos h

theorem verticalTransition_last_stay {s : State} (hv : s.timing.vphase = .lastLine)
    (h : s.timing.vcnt < s.vt.total) : verticalTransition s = .next s := by
  unfold verticalTransition; rw [hv]; exact if_neg (Nat.not_le.2 h)

/-! ### Entering `HActive` -/

theorem enterHActive_active {s : State} (h : s.timing.vphase = .active) :
    enterHActive s = renderScanline (if s.timing.vcnt = 0 then frameInit s else s) s.timing.vcnt := if_pos h

theorem enterHActive_other {s : State} (h : s.timing.vphase ≠ .active) : enterHActive s = .next s := if_neg h

/-- `FrameInit` changes the accumulators only. -/
theorem frameInit_if (s : State) :
    (if s.timing.vcnt = 0 then frameInit s else s) =
      { s with acc := if s.timing.vcnt = 0 then frameInitAcc s.cfg2 s.mem s.acc else s.acc } := by
  split
  · rfl
  · rfl

end Sys2Proof.Machine
end

