-- ==== Sys2Proof/Laws/Raster.lean ====
section
/-! SUPPORT. The steppers in closed form: what `k` steps leave in each counter, and the visits of a canonical iteration as
the first so many iterates. -/

namespace Sys2Proof.Machine

/-! ### Iterates -/

@[simp] theorem LineStepper.iterate_majinc (s : LineStepper) (k : Nat) :
    (LineStepper.advance^[k] s).majinc = s.majinc := by
  induction k with
  | zero => rfl
  | succ k ih => rw [Function.iterate_succ_apply']; exact ih

@[simp] theorem LineStepper.iterate_mininc (s : LineStepper) (k : Nat) :
    (LineStepper.advance^[k] s).mininc = s.mininc := by
  induction k with
  | zero => rfl
  | succ k ih => rw [Function.iterate_succ_apply']; exact ih

@[simp] theorem LineStepper.iterate_majend (s : LineStepper) (k : Nat) :
    (LineStepper.advance^[k] s).majend = s.majend := by
  induction k with
  | zero => rfl
  | succ k ih => rw [Function.iterate_succ_apply']; exact ih

@[simp] theorem LineStepper.iterate_xmajor (s : LineStepper) (k : Nat) :
    (LineStepper.advance^[k] s).xmajor = s.xmajor := by
  induction k with
  | zero => rfl
  | succ k ih => rw [Function.iterate_succ_apply']; exact ih

@[simp] theorem LineStepper.iterate_dmaj (s : LineStepper) (k : Nat) : (LineStepper.advance^[k] s).dmaj = s.dmaj := by
  induction k with
  | zero => rfl
  | succ k ih => rw [Function.iterate_succ_apply']; exact ih

theorem LineStepper.iterate_majcur (s : LineStepper) (k : Nat) :
    (LineStepper.advance^[k] s).majcur = s.majcur + k * s.majinc := by
  induction k with
  | zero => simp
  | succ k ih =>
    rw [Function.iterate_succ_apply']
    change (LineStepper.advance^[k] s).majcur + (LineStepper.advance^[k] s).majinc = _
    rw [ih, LineStepper.iterate_majinc]; push_cast; ring

theorem LineStepper.iterate_mincur (s : LineStepper) (k : Nat) :
    (LineStepper.advance^[k] s).mincur = s.mincur + k * s.mininc := by
  induction k with
  | zero => simp
  | succ k ih =>
    rw [Function.iterate_succ_apply']
    change (LineStepper.advance^[k] s).mincur + (LineStepper.advance^[k] s).mininc = _
    rw [ih, LineStepper.iterate_mininc]; push_cast; ring

theorem TexLineStepper.iterate_line (s : TexLineStepper) (k : Nat) :
    (TexLineStepper.advance^[k] s).line = LineStepper.advance^[k] s.line := by
  induction k with
  | zero => rfl
  | succ k ih =>
    rw [Function.iterate_succ_apply', Function.iterate_succ_apply', ← ih]; rfl

@[simp] theorem TexLineStepper.iterate_uinc (s : TexLineStepper) (k : Nat) :
    (TexLineStepper.advance^[k] s).uinc = s.uinc := by
  induction k with
  | zero => rfl
  | succ k ih => rw [Function.iterate_succ_apply']; exact ih

@[simp] theorem TexLineStepper.iterate_size (s : TexLineStepper) (k : Nat) :
    (TexLineStepper.advance^[k] s).size = s.size := by
  induction k with
  | zero => rfl
  | succ k ih => rw [Function.iterate_succ_apply']; exact ih

@[simp] theorem TexLineStepper.iterate_flip (s : TexLineStepper) (k : Nat) :
    (TexLineStepper.advance^[k] s).flip = s.flip := by
  induction k with
  | zero => rfl
  | succ k ih => rw [Function.iterate_succ_apply']; exact ih

theorem TexLineStepper.iterate_ucur (s : TexLineStepper) (k : Nat) :
    (TexLineStepper.advance^[k] s).ucur = s.ucur + k * s.uinc := by
  induction k with
  | zero => simp
  | succ k ih =>
    rw [Function.iterate_succ_apply']
    change (TexLineStepper.advance^[k] s).ucur + (TexLineStepper.advance^[k] s).uinc = _
    rw [ih, TexLineStepper.iterate_uinc]; push_cast; ring

theorem EdgeStepper.iterate_inc (e : EdgeStepper) (k : Nat) :
    (EdgeStepper.advance^[k] e).xinc = e.xinc ∧ (EdgeStepper.advance^[k] e).yinc = e.yinc := by
  induction k with
  | zero => exact ⟨rfl, rfl⟩
  | succ k ih => rw [Function.iterate_succ_apply']; exact ih

theorem EdgeStepper.iterate_cur (e : EdgeStepper) (k : Nat) :
    (EdgeStepper.advance^[k] e).xcur = e.xcur + k * e.xinc ∧ (EdgeStepper.advance^[k] e).ycur = e.ycur + k * e.yinc := by
  induction k with
  | zero => simp
  | succ k ih =>
    rw [Function.iterate_succ_apply']
    have hi := e.iterate_inc k
    constructor
    · change (EdgeStepper.advance^[k] e).xcur + (EdgeStepper.advance^[k] e).xinc = _
      rw [ih.1, hi.1]; push_cast; ring
    · change (EdgeStepper.advance^[k] e).ycur + (EdgeStepper.advance^[k] e).yinc = _
      rw [ih.2, hi.2]; push_cast; ring

theorem QuadStepper.iterate_edges (q : QuadStepper) (k : Nat) :
    (QuadStepper.advance^[k] q).left = EdgeStepper.advance^[k] q.left ∧
      (QuadStepper.advance^[k] q).right = EdgeStepper.advance^[k] q.right := by
  induction k with
  | zero => exact ⟨rfl, rfl⟩
  | succ k ih =>
    rw [Function.iterate_succ_apply', Function.iterate_succ_apply', Function.iterate_succ_apply', ← ih.1, ← ih.2]
    exact ⟨rfl, rfl⟩

theorem QuadStepper.iterate_cur (q : QuadStepper) (k : Nat) : (QuadStepper.advance^[k] q).cur = q.cur + k := by
  induction k with
  | zero => rfl
  | succ k ih =>
    rw [Function.iterate_succ_apply']
    change (QuadStepper.advance^[k] q).cur + 1 = _
    rw [ih]; omega

@[simp] theorem QuadStepper.iterate_stop (q : QuadStepper) (k : Nat) :
    (QuadStepper.advance^[k] q).stop = q.stop := by
  induction k with
  | zero => rfl
  | succ k ih => rw [Function.iterate_succ_apply']; exact ih

@[simp] theorem QuadStepper.iterate_n (q : QuadStepper) (k : Nat) : (QuadStepper.advance^[k] q).n = q.n := by
  induction k with
  | zero => rfl
  | succ k ih => rw [Function.iterate_succ_apply']; exact ih

theorem TexQuadStepper.iterate_quad (s : TexQuadStepper) (k : Nat) :
    (TexQuadStepper.advance^[k] s).quad = QuadStepper.advance^[k] s.quad := by
  induction k with
  | zero => rfl
  | succ k ih =>
    rw [Function.iterate_succ_apply', Function.iterate_succ_apply', ← ih]; rfl

@[simp] theorem TexQuadStepper.iterate_vinc (s : TexQuadStepper) (k : Nat) :
    (TexQuadStepper.advance^[k] s).vinc = s.vinc := by
  induction k with
  | zero => rfl
  | succ k ih => rw [Function.iterate_succ_apply']; exact ih

@[simp] theorem TexQuadStepper.iterate_sizeV (s : TexQuadStepper) (k : Nat) :
    (TexQuadStepper.advance^[k] s).sizeV = s.sizeV := by
  induction k with
  | zero => rfl
  | succ k ih => rw [Function.iterate_succ_apply']; exact ih

@[simp] theorem TexQuadStepper.iterate_flipV (s : TexQuadStepper) (k : Nat) :
    (TexQuadStepper.advance^[k] s).flipV = s.flipV := by
  induction k with
  | zero => rfl
  | succ k ih => rw [Function.iterate_succ_apply']; exact ih

theorem TexQuadStepper.iterate_vcur (s : TexQuadStepper) (k : Nat) :
    (TexQuadStepper.advance^[k] s).vcur = s.vcur + k * s.vinc := by
  induction k with
  | zero => simp
  | succ k ih =>
    rw [Function.iterate_succ_apply']
    change (TexQuadStepper.advance^[k] s).vcur + (TexQuadStepper.advance^[k] s).vinc = _
    rw [ih, TexQuadStepper.iterate_vinc]; push_cast; ring

/-! ### Visits -/

/-- A list of iterates, from the first on. -/
theorem range_map_iterate {α : Type} (f : α → α) (n : Nat) (s : α) :
    s :: (List.range n).map (fun k => f^[k] (f s)) = (List.range (n + 1)).map fun k => f^[k] s := by
  rw [List.range_succ_eq_map, List.map_cons, List.map_map]
  rfl

theorem LineStepper.visits_eq (n : Nat) : ∀ (s : LineStepper), (∀ k < n, (LineStepper.advance^[k] s).canStep = true) →
    s.visits n = (List.range n).map fun k => LineStepper.advance^[k] s := by
  induction n with
  | zero => exact fun _ _ => rfl
  | succ n ih =>
    intro s h
    have h0 : s.canStep = true := h 0 (Nat.succ_pos n)
    have ht := ih s.advance fun k hk => by
      have := h (k + 1) (by omega)
      rwa [Function.iterate_succ_apply] at this
    simp only [LineStepper.visits, LineStepper.step, if_pos h0, ht]
    exact range_map_iterate _ n s

theorem TexLineStepper.visits_eq (n : Nat) : ∀ (s : TexLineStepper),
    (∀ k < n, (LineStepper.advance^[k] s.line).canStep = true) →
    s.visits n = (List.range n).map fun k => TexLineStepper.advance^[k] s := by
  induction n with
  | zero => exact fun _ _ => rfl
  | succ n ih =>
    intro s h
    have h0 : s.line.canStep = true := h 0 (Nat.succ_pos n)
    have ht := ih s.advance fun k hk => by
      have := h (k + 1) (by omega)
      rwa [Function.iterate_succ_apply] at this
    simp only [TexLineStepper.visits, TexLineStepper.step, if_pos h0, ht]
    exact range_map_iterate _ n s

theorem QuadStepper.visits_eq (n : Nat) : ∀ (s : QuadStepper), (∀ k < n, (QuadStepper.advance^[k] s).canStep = true) →
    s.visits n = (List.range n).map fun k => QuadStepper.advance^[k] s := by
  induction n with
  | zero => exact fun _ _ => rfl
  | succ n ih =>
    intro s h
    have h0 : s.canStep = true := h 0 (Nat.succ_pos n)
    have ht := ih s.advance fun k hk => by
      have := h (k + 1) (by omega)
      rwa [Function.iterate_succ_apply] at this
    simp only [QuadStepper.visits, QuadStepper.step, if_pos h0, ht]
    exact range_map_iterate _ n s

theorem TexQuadStepper.visits_eq (n : Nat) : ∀ (s : TexQuadStepper),
    (∀ k < n, (QuadStepper.advance^[k] s.quad).canStep = true) →
    s.visits n = (List.range n).map fun k => TexQuadStepper.advance^[k] s := by
  induction n with
  | zero => exact fun _ _ => rfl
  | succ n ih =>
    intro s h
    have h0 : s.quad.canStep = true := h 0 (Nat.succ_pos n)
    have ht := ih s.advance fun k hk => by
      have := h (k + 1) (by omega)
      rwa [Function.iterate_succ_apply] at this
    simp only [TexQuadStepper.visits, TexQuadStepper.step, if_pos h0, ht]
    exact range_map_iterate _ n s

/-- A fresh line stepper can be stepped exactly `dmaj + 1` times (40_rasterizer.md rule R164). -/
theorem LineStepper.new_canStep (c1 c2 : Coord) (k : Nat) (h : k < spanOf c1 c2 + 1) :
    (LineStepper.advance^[k] (LineStepper.new c1 c2)).canStep = true := by
  simp only [LineStepper.canStep, bne_iff_ne, LineStepper.iterate_majend, LineStepper.iterate_majcur]
  simp only [LineStepper.new, fixOne]
  split <;> split <;> (intro e; omega)

/-- The visits of a line are the first `dmaj + 1` iterates (40_rasterizer.md rule R168). -/
theorem lineVisits_eq (c1 c2 : Coord) :
    lineVisits c1 c2 = (List.range (spanOf c1 c2 + 1)).map fun k => LineStepper.advance^[k] (LineStepper.new c1 c2) :=
  LineStepper.visits_eq _ _ fun k hk => LineStepper.new_canStep c1 c2 k hk

/-- A textured line of no texels visits nothing; any other visits the points of its line (40_rasterizer.md rule R172). -/
theorem texLineVisits_eq (c1 c2 : Coord) (size : Nat) (flip : Bool) :
    texLineVisits c1 c2 size flip =
      if size = 0 then []
      else (List.range (spanOf c1 c2 + 1)).map fun k =>
        TexLineStepper.advance^[k] (TexLineStepper.new c1 c2 size flip) := by
  split
  · next h => simp [texLineVisits, TexLineStepper.visits, TexLineStepper.step, TexLineStepper.new, h, LineStepper.canStep]
  · next h =>
    refine TexLineStepper.visits_eq _ _ fun k hk => ?_
    rw [show (TexLineStepper.new c1 c2 size flip).line = LineStepper.new c1 c2 from if_neg h]
    exact LineStepper.new_canStep c1 c2 k hk

/-- The row count of a quad (40_rasterizer.md rule R175). -/
def quadSpan (a b c d : Coord) : Nat := max (spanOf a d) (spanOf b c)

theorem QuadStepper.new_canStep (a b c d : Coord) (k : Nat) (h : k < quadSpan a b c d + 1) :
    (QuadStepper.advance^[k] (QuadStepper.new a b c d)).canStep = true := by
  simp only [QuadStepper.canStep, bne_iff_ne, QuadStepper.iterate_stop, QuadStepper.iterate_cur]
  simp only [QuadStepper.new]
  unfold quadSpan at h
  omega

/-- The visits of a quad are the first `N + 1` iterates (40_rasterizer.md rule R176). -/
theorem quadVisits_eq (a b c d : Coord) :
    quadVisits a b c d =
      (List.range (quadSpan a b c d + 1)).map fun k => QuadStepper.advance^[k] (QuadStepper.new a b c d) :=
  QuadStepper.visits_eq _ _ fun k hk => QuadStepper.new_canStep a b c d k hk

/-- A textured quad of no rows visits nothing; any other visits the rows of its quad (40_rasterizer.md rule R178). -/
theorem texQuadVisits_eq (a b c d : Coord) (sizeV : Nat) (flipV : Bool) :
    texQuadVisits a b c d sizeV flipV =
      if sizeV = 0 then []
      else (List.range (quadSpan a b c d + 1)).map fun k =>
        TexQuadStepper.advance^[k] (TexQuadStepper.new a b c d sizeV flipV) := by
  split
  · next h =>
    simp [texQuadVisits, TexQuadStepper.visits, TexQuadStepper.step, TexQuadStepper.new, h, QuadStepper.canStep,
      QuadStepper.new]
  · next h =>
    refine TexQuadStepper.visits_eq _ _ fun k hk => ?_
    rw [show (TexQuadStepper.new a b c d sizeV flipV).quad = QuadStepper.new a b c d from if_neg h]
    exact QuadStepper.new_canStep a b c d k hk

/-! ### What a line, a quad and their textured forms hold at step `k` -/

@[simp] theorem LineStepper.iterate_new_dmaj (c1 c2 : Coord) (k : Nat) :
    (LineStepper.advance^[k] (LineStepper.new c1 c2)).dmaj = spanOf c1 c2 := by
  rw [LineStepper.iterate_dmaj]; rfl

theorem linePoints_getElem? (c1 c2 : Coord) {k : Nat} (h : k < spanOf c1 c2 + 1) :
    (linePoints c1 c2)[k]? = some (LineStepper.advance^[k] (LineStepper.new c1 c2)).coord := by
  rw [linePoints, lineVisits_eq, List.getElem?_map, List.getElem?_map, List.getElem?_range h]; rfl

theorem linePoints_getD (c1 c2 p : Coord) {k : Nat} (h : k < spanOf c1 c2 + 1) :
    (linePoints c1 c2).getD k p = (LineStepper.advance^[k] (LineStepper.new c1 c2)).coord := by
  rw [List.getD_eq_getElem?_getD, linePoints_getElem? _ _ h]; rfl

theorem quadRows_getElem? (a b c d : Coord) {k : Nat} (h : k < quadSpan a b c d + 1) :
    (quadRows a b c d)[k]? =
      some
        ((QuadStepper.advance^[k] (QuadStepper.new a b c d)).left.coord,
          (QuadStepper.advance^[k] (QuadStepper.new a b c d)).right.coord) := by
  rw [quadRows, quadVisits_eq, List.getElem?_map, List.getElem?_map, List.getElem?_range h]; rfl

/-- An increment of `size` texels over `n + 1` points is a floored quotient (40_rasterizer.md rules R161, R172). -/
theorem safeDiv_texels (size n : Nat) : safeDiv (toFix size) (n + 1) = ((size * 0x10000 / (n + 1) : Nat) : Int) := by
  rw [safeDiv, if_neg (by omega), toFix, Int.tdiv_eq_ediv_of_nonneg (by omega)]
  push_cast; rfl

/-- The texel index at point `k` of a textured line (40_rasterizer.md rules R172, R173). -/
theorem TexLineStepper.iterate_u (l r : Coord) (size : Nat) (flip : Bool) (k : Nat) :
    let i := k * (size * 0x10000 / (spanOf l r + 1)) / 0x10000
    (TexLineStepper.advance^[k] (TexLineStepper.new l r size flip)).u = if flip then (size : Int) - 1 - i else i := by
  intro i
  have hf : fixFloor (TexLineStepper.advance^[k] (TexLineStepper.new l r size flip)).ucur = (i : Int) := by
    rw [TexLineStepper.iterate_ucur, show (TexLineStepper.new l r size flip).uinc = _ from safeDiv_texels size (spanOf l r),
      show (TexLineStepper.new l r size flip).ucur = 0 from rfl, Int.zero_add, fixFloor]
    push_cast [i]; rfl
  simp only [TexLineStepper.u, TexLineStepper.iterate_flip, TexLineStepper.iterate_size, hf]
  rfl

/-- The texture row at row `k` of a textured quad (40_rasterizer.md rule R178). -/
theorem TexQuadStepper.iterate_v (a b c d : Coord) (size : Nat) (flip : Bool) (k : Nat) :
    let i := k * (size * 0x10000 / (quadSpan a b c d + 1)) / 0x10000
    (TexQuadStepper.advance^[k] (TexQuadStepper.new a b c d size flip)).v = if flip then (size : Int) - 1 - i else i := by
  intro i
  have hf : fixFloor (TexQuadStepper.advance^[k] (TexQuadStepper.new a b c d size flip)).vcur = (i : Int) := by
    rw [TexQuadStepper.iterate_vcur,
      show (TexQuadStepper.new a b c d size flip).vinc = _ from safeDiv_texels size (quadSpan a b c d),
      show (TexQuadStepper.new a b c d size flip).vcur = 0 from rfl, Int.zero_add, fixFloor]
    push_cast [i]; rfl
  simp only [TexQuadStepper.v, TexQuadStepper.iterate_flipV, TexQuadStepper.iterate_sizeV, hf]
  rfl

/-! ### Division and floor -/

/-- A division by a span, times the divisor, lies between 0 and the dividend (40_rasterizer.md rule R170). -/
theorem safeDiv_mul (a : Int) (n : Nat) :
    (0 ≤ a → 0 ≤ n * safeDiv a n ∧ n * safeDiv a n ≤ a ∧ (0 < n → a < n * safeDiv a n + n)) ∧
      (a ≤ 0 → a ≤ n * safeDiv a n ∧ n * safeDiv a n ≤ 0 ∧ (0 < n → n * safeDiv a n - n < a)) := by
  rcases Nat.eq_zero_or_pos n with rfl | hn
  · simp [safeDiv]
  · have hn' : (n : Int) ≠ 0 := by omega
    have key := Int.mul_tdiv_add_tmod a n
    rw [safeDiv, if_neg hn']
    constructor
    · intro ha
      have h0 := Int.tmod_nonneg n ha
      have h1 := Int.tmod_lt_of_pos a (show (0 : Int) < n by omega)
      have h2 : 0 ≤ Int.tdiv a n := Int.tdiv_nonneg ha (by omega)
      have h3 : 0 ≤ (n : Int) * Int.tdiv a n := Int.mul_nonneg (by omega) h2
      exact ⟨h3, by omega, fun _ => by omega⟩
    · intro ha
      have hneg : Int.tdiv a n = -Int.tdiv (-a) n := by rw [Int.neg_tdiv]; omega
      have key' := Int.mul_tdiv_add_tmod (-a) n
      have h0 := Int.tmod_nonneg n (show 0 ≤ -a by omega)
      have h1 := Int.tmod_lt_of_pos (-a) (show (0 : Int) < n by omega)
      have h2 : 0 ≤ Int.tdiv (-a) n := Int.tdiv_nonneg (by omega) (by omega)
      have h3 : 0 ≤ (n : Int) * Int.tdiv (-a) n := Int.mul_nonneg (by omega) h2
      have h4 : (n : Int) * Int.tdiv a n = -(n * Int.tdiv (-a) n) := by rw [hneg]; ring
      exact ⟨by omega, by omega, fun _ => by omega⟩

/-- The integer part of a position at a pixel's centre (00_scope.md rule R11). -/
theorem fixFloor_toFixHalf (i : Int) : fixFloor (toFixHalf i) = i := by
  unfold fixFloor toFixHalf toFix fixHalf; omega

end Sys2Proof.Machine
end

