-- ==== Sys2Proof/Laws/Draw.lean ====
section
/-! SUPPORT. Plots in terms of the points of a line: one lemma for the plots of a point, and one for a textured row, which
fetches a texel only when its index changes. -/

namespace Sys2Proof.Machine

/-- Visits numbered from 0 on, as a list over their numbers. -/
theorem flatMap_zipIdx_range {α β : Type} (n : Nat) (f : Nat → α) (g : α × Nat → List β) :
    ((List.range n).map f).zipIdx.flatMap g = (List.range n).flatMap fun k => g (f k, k) := by
  induction n with
  | zero => rfl
  | succ n ih => simp [List.range_succ, List.zipIdx_append, ih, List.flatMap_append]

theorem flatMap_congr_mem {α β : Type} {l : List α} {f g : α → List β} (h : ∀ a ∈ l, f a = g a) :
    l.flatMap f = l.flatMap g := by
  induction l with
  | nil => rfl
  | cons a l ih =>
    rw [List.flatMap_cons, List.flatMap_cons, h a List.mem_cons_self, ih fun b hb => h b (List.mem_cons_of_mem a hb)]

/-- The plots of point `k` of a line: the companion is at the minor coordinate of the point before (40_rasterizer.md rules
R166, R167). -/
theorem pointPlots_iterate (c1 c2 : Coord) {k : Nat} (h : k < spanOf c1 c2 + 1) (v : Word) :
    pointPlots (LineStepper.advance^[k] (LineStepper.new c1 c2)) v =
      companionThenPoint c1 c2 ((linePoints c1 c2).getD (k - 1) c1) ((linePoints c1 c2).getD k c1) v := by
  rw [linePoints_getD _ _ _ h, linePoints_getD _ _ _ (show k - 1 < _ by omega)]
  cases k with
  | zero =>
    simp [pointPlots, companionThenPoint, LineStepper.new, LineStepper.coord, LineStepper.point, plotAt]
  | succ k =>
    have hx : (LineStepper.advance^[k] (LineStepper.new c1 c2)).xmajor =
        decide ((c2.y - c1.y).natAbs ≤ (c2.x - c1.x).natAbs) := by
      rw [LineStepper.iterate_xmajor]; rfl
    rw [Nat.add_sub_cancel, Function.iterate_succ_apply']
    generalize LineStepper.advance^[k] (LineStepper.new c1 c2) = t at hx
    simp only [pointPlots, companionThenPoint, LineStepper.advance, LineStepper.coord, LineStepper.point,
      LineStepper.aaCoord, plotAt, hx]
    by_cases hm : (c2.y - c1.y).natAbs ≤ (c2.x - c1.x).natAbs
    · simp only [hm, decide_true, if_true, bne_iff_ne, ne_eq, ite_not]
    · simp only [hm, decide_false, if_false, bne_iff_ne, ne_eq, ite_not]; rfl

/-- The texel kept by a textured row is the one its index names, so a row plots as if each point fetched its own
(42_command_processor.md rule R238). -/
theorem texRowPlotsFrom_iterate (m : Arena) (d : DrawOps) (x : Texture) (row n : Nat) (v : Int) (s : TexLineStepper)
    (hs : s.uchanged = true) (j : Nat) :
    ∀ (k : Nat) (kept : Option Texel),
      (0 < k → kept = some (fetchTexel m x (TexLineStepper.advance^[k - 1] s).u v)) →
      texRowPlotsFrom m d x row n v kept k ((List.range j).map fun i => TexLineStepper.advance^[k + i] s) =
        (List.range j).flatMap fun i =>
          let t := TexLineStepper.advance^[k + i] s
          let texel := fetchTexel m x t.u v
          if texel.transparent d.pmod then []
          else pointPlots t.line (shade m d row n (k + i) t.line.dmaj texel.value) := by
  induction j with
  | zero => intros; rfl
  | succ j ih =>
    intro k kept hk
    have head : (if (TexLineStepper.advance^[k] s).uchanged then
        some (fetchTexel m x (TexLineStepper.advance^[k] s).u v) else kept) =
          some (fetchTexel m x (TexLineStepper.advance^[k] s).u v) := by
      cases k with
      | zero => exact if_pos hs
      | succ k =>
        split
        · rfl
        · next hc =>
          rw [hk (Nat.succ_pos k), Nat.add_sub_cancel]
          rw [Function.iterate_succ_apply'] at hc ⊢
          simp only [TexLineStepper.advance, bne_iff_ne, ne_eq, not_not] at hc
          simp only [TexLineStepper.u, TexLineStepper.advance, hc]
    rw [List.range_succ_eq_map, List.map_cons, List.map_map, List.flatMap_cons, List.flatMap_map]
    simp only [texRowPlotsFrom, Nat.add_zero, head]
    have tail := ih (k + 1) (some (fetchTexel m x (TexLineStepper.advance^[k] s).u v)) fun _ => rfl
    simp only [Nat.add_assoc, Nat.add_comm 1] at tail
    exact congrArg _ tail

end Sys2Proof.Machine
end

