-- ==== Sys2Proof/Laws/Exec.lean ====
section
/-! SUPPORT. What an instruction can do: refused, or one of two kinds of next state. -/

namespace Sys2Proof.Machine

/-- An operation is refused while the sprite mode is not admitted; a jump mode is not. -/
theorem exec_refused {i : Instr} {s : State} (hi : i.isJump = false) (h : s.spriteAdmitted = false) :
    exec i s = .refused .spriteMode := by
  cases i <;>
    first
    | (cases hi; done)
    | simp only [exec, execEndList, execSkip, execNspr, execSspr, execDspr, execPoly, execPlin, execLine, execUclip,
        execSclip, execLcoord, execUnrec3, execUnrec7, execUnrecB, execUnrecC, execUnrecD, execUnrecE, execUnrecF,
        unrecognized, drawTextured, drawSolid, guardSprite_refused h]

/-- The next state of an instruction that goes on: the RenderContext without its Running flag, records, and words of the
draw buffer. -/
def State.wentOn (s t : State) : Prop :=
  ∃ (c : RenderContext) (records : List DiagRecord) (ws : List (Nat × Word)),
    t = { s with ctx := c, diag := s.diag ++ records, mem := s.mem.writeWords s.drawBuffer ws } ∧
      c.rendering = s.ctx.rendering ∧ (s.addressesAligned → c.cmdAddr.toNat % 8 = 0 ∧ c.retAddr.toNat % 8 = 0) ∧
      ∀ w ∈ ws, w.1 < Config.fbBytes ∧ w.1 % 2 = 0

/-- The next state of an instruction that ends the frame. -/
def State.ended (s t : State) : Prop :=
  ∃ records : List DiagRecord,
    t =
      { s with
        ctx := { s.ctx with rendering := false }
        reg1 := s.reg1.completeFrame
        diag := s.diag ++ records
        out := s.out ++ [.trigger .spriteDrawEnd, .drawCallCounters s.ctx.drawCalls] }

theorem State.wentOn_ctx (s : State) (c : RenderContext) (h1 : c.rendering = s.ctx.rendering)
    (h2 : s.addressesAligned → c.cmdAddr.toNat % 8 = 0 ∧ c.retAddr.toNat % 8 = 0) : s.wentOn (s.withCtx c) :=
  ⟨c, [], [], by rw [List.append_nil]; rfl, h1, h2, fun _ hw => by cases hw⟩

theorem State.wentOn_log (s : State) (r : DiagRecord) : s.wentOn (s.log r) :=
  ⟨s.ctx, [r], [], rfl, rfl, fun h => h, fun _ hw => by cases hw⟩

theorem State.ended_endFrame (s : State) : s.ended (endFrame s) :=
  ⟨[], by rw [endFrame_eq, List.append_assoc, List.append_nil]; rfl⟩

theorem State.ended_loopGuard (s : State) : s.ended (loopGuard s) :=
  ⟨[_], by rw [loopGuard_eq, List.append_assoc]; rfl⟩

theorem drawSolid_wentOn {pmod : Word} {ps : List Plot} {s t : State} (h : drawSolid pmod ps s = .next t) :
    s.wentOn t := by
  have ha := (guardSprite_eq_next.1 h).1
  rw [drawSolid_admitted ha, Host.Outcome.next.injEq] at h
  exact ⟨_, _, _, h.symm, rfl, fun h => h, s.writesOf_inside pmod ps⟩

theorem drawTextured_wentOn {d : DrawOps} {x : TexOps} {q : Corners} {s t : State} (h : drawTextured d x q s = .next t) :
    s.wentOn t := by
  have ha := (guardSprite_eq_next.1 h).1
  rw [drawTextured_admitted ha, Host.Outcome.next.injEq] at h
  split at h
  · refine ⟨{ s.ctx with drawCalls := s.ctx.drawCalls + 1 }, prologueRecords s d.pmod ++ [.unhandledCommand s.ctx.cmdAddr s.ctrlAtCmd d.pmod], [], ?_, rfl,
      fun h => h, fun _ hw => by cases hw⟩
    rw [← h, List.append_assoc]; rfl
  · exact ⟨_, _, _, h.symm, rfl, fun h => h, s.writesOf_inside d.pmod _⟩

/-- Everything an instruction can do when it answers a next state. -/
theorem exec_cases {i : Instr} {s t : State} (h : exec i s = .next t) : s.wentOn t ∨ s.ended t := by
  have inj {u : State} (h : (Host.Outcome.next u : Host.Outcome State Fault Refusal) = .next t) : t = u := by
    rw [Host.Outcome.next.injEq] at h; exact h.symm
  have ctx {c : RenderContext}
      (h : guardSprite s (fun s => .next (s.withCtx c)) = .next t) (h1 : c.rendering = s.ctx.rendering)
      (h2 : s.addressesAligned → c.cmdAddr.toNat % 8 = 0 ∧ c.retAddr.toNat % 8 = 0) : s.wentOn t ∨ s.ended t := by
    rw [inj (guardSprite_eq_next.1 h).2]; exact .inl (s.wentOn_ctx c h1 h2)
  have unrec (h : unrecognized s = .next t) : s.wentOn t ∨ s.ended t := by
    rw [inj (guardSprite_eq_next.1 h).2]; exact .inl (s.wentOn_log _)
  cases i with
  | endList =>
    have h' : guardSprite s (fun s => .next (endFrame s)) = .next t := h
    rw [inj (guardSprite_eq_next.1 h').2]; exact .inr s.ended_endFrame
  | skip =>
    have h' : guardSprite s (fun s => .next s) = .next t := h
    rw [inj (guardSprite_eq_next.1 h').2]; exact .inl (s.wentOn_ctx s.ctx rfl fun h => h)
  | nspr => exact .inl (drawTextured_wentOn h)
  | sspr => exact .inl (drawTextured_wentOn h)
  | dspr => exact .inl (drawTextured_wentOn h)
  | poly => exact .inl (drawSolid_wentOn h)
  | plin => exact .inl (drawSolid_wentOn h)
  | line => exact .inl (drawSolid_wentOn h)
  | uclip => exact ctx h rfl fun h => h
  | sclip => exact ctx h rfl fun h => h
  | lcoord => exact ctx h rfl fun h => h
  | unrec3 => exact unrec h
  | unrec7 => exact unrec h
  | unrecB => exact unrec h
  | unrecC => exact unrec h
  | unrecD => exact unrec h
  | unrecE => exact unrec h
  | unrecF => exact unrec h
  | jumpNext => rw [inj h]; exact .inl (s.wentOn_ctx _ rfl fun ha => ⟨nextCommand_aligned ha.1, ha.2⟩)
  | jumpAssign link =>
    have h' : execJumpAssign link s = .next t := h
    unfold execJumpAssign at h'
    split at h'
    · rw [inj h']; exact .inr s.ended_loopGuard
    · rw [inj h']; exact .inl (s.wentOn_ctx _ rfl fun ha => ⟨addressOf_aligned link, ha.2⟩)
  | jumpAssignZero => rw [inj h]; exact .inr s.ended_loopGuard
  | jumpCall link =>
    rw [inj h]
    refine .inl (s.wentOn_ctx _ rfl fun ha => ⟨addressOf_aligned link, ?_⟩)
    dsimp only
    split
    · exact ha.2
    · exact nextCommand_aligned ha.1
  | jumpReturn =>
    have h' : execJumpReturn s = .next t := h
    unfold execJumpReturn at h'
    split at h'
    · rw [inj h']; exact .inl (s.wentOn_ctx _ rfl fun ha => ⟨ha.2, ha.2⟩)
    · rw [inj h']; exact .inl (s.wentOn_ctx _ rfl fun ha => ⟨nextCommand_aligned ha.1, ha.2⟩)

/-- An instruction answers a next state, or refuses. -/
theorem exec_completes (i : Instr) {s : State} (h : s.spriteAdmitted = true) : ∃ t, exec i s = .next t := by
  cases i <;>
    simp only [exec, execEndList, execSkip, execNspr, execSspr, execDspr, execPoly, execPlin, execLine, execUclip,
      execSclip, execLcoord, execUnrec3, execUnrec7, execUnrecB, execUnrecC, execUnrecD, execUnrecE, execUnrecF,
      unrecognized, drawTextured_admitted h, drawSolid_admitted h, guardSprite_admitted h, execJumpNext, execJumpAssign,
      execJumpAssignZero, execJumpCall, execJumpReturn, Host.Outcome.next.injEq, exists_eq']
  all_goals split <;> exact ⟨_, rfl⟩

/-- A draw command counts itself, logs, and writes the draw buffer; nothing else moves (42_command_processor.md rules R231,
R233). -/
theorem exec_draws {i : Instr} {s : State} (hi : drawsPixels i = true) (h : s.spriteAdmitted = true) :
    ∃ t, exec i s = .next t ∧
      t = { s with mem := t.mem, ctx := { s.ctx with drawCalls := s.ctx.drawCalls + 1 }, diag := t.diag } ∧
      ∀ id a, id ≠ s.drawBuffer → t.mem.read8 id a = s.mem.read8 id a := by
  have textured (d : DrawOps) (x : TexOps) (q : Corners) : ∃ t, drawTextured d x q s = .next t ∧
      t = { s with mem := t.mem, ctx := { s.ctx with drawCalls := s.ctx.drawCalls + 1 }, diag := t.diag } ∧
      ∀ id a, id ≠ s.drawBuffer → t.mem.read8 id a = s.mem.read8 id a := by
    rw [drawTextured_admitted h]
    split
    · exact ⟨_, rfl, rfl, fun _ _ _ => rfl⟩
    · exact ⟨_, rfl, rfl, fun _ a hne => Arena.writeWords_read8_other hne _ a _⟩
  have solid (p : Word) (ps : List Plot) : ∃ t, drawSolid p ps s = .next t ∧
      t = { s with mem := t.mem, ctx := { s.ctx with drawCalls := s.ctx.drawCalls + 1 }, diag := t.diag } ∧
      ∀ id a, id ≠ s.drawBuffer → t.mem.read8 id a = s.mem.read8 id a := by
    rw [drawSolid_admitted h]
    exact ⟨_, rfl, rfl, fun _ a hne => Arena.writeWords_read8_other hne _ a _⟩
  cases i <;> first | (cases hi; done) | exact textured _ _ _ | exact solid _ _

end Sys2Proof.Machine
end

