-- ==== Sys2Proof/Laws/Frame.lean ====
section
/-! SUPPORT. The output frame, the lengths of the line buffers, and the two resets. -/

namespace Sys2Proof.Machine

/-! ### Lines -/

@[simp] theorem length_forLine {α : Type} (w : Nat) (f : Nat → α) : (forLine w f).length = w := by simp [forLine]

theorem getElem_forLine {α : Type} (w : Nat) (f : Nat → α) {x : Nat} (h : x < (forLine w f).length) :
    (forLine w f)[x]'h = f x := by simp [forLine]

/-- A line no longer than the buffer leaves its length. -/
theorem length_overlay {α : Type} (line old : List α) (h : line.length ≤ old.length) :
    (overlay line old).length = old.length := by simp [overlay]; omega

theorem getD_overlay {α : Type} (row old : List α) (d : α) {x : Nat} (h : x < row.length) :
    (overlay row old).getD x d = row[x]'h := by
  rw [overlay, List.getD_append _ _ _ _ h, List.getD_eq_getElem _ _ h]

@[simp] theorem PerSlot.get_set_same {α : Type} (p : PerSlot α) (L : Slot) (v : α) : (p.set L v).get L = v := by
  cases L <;> rfl

theorem PerSlot.get_set_ne {α : Type} (p : PerSlot α) {L M : Slot} (v : α) (h : M ≠ L) :
    (p.set L v).get M = p.get M := by cases L <;> cases M <;> first | rfl | exact absurd rfl h

@[simp] theorem PerSlot.get_all {α : Type} (v : α) (L : Slot) : (PerSlot.all v).get L = v := by cases L <;> rfl

theorem outW_le (t : Timing) : t.outW ≤ Config.maxOutW := by
  unfold Timing.outW; split <;> decide

/-! ### The output frame -/

theorem OutFrame.pixel_writeRow_same (f : OutFrame) (y : Nat) (row : List Long) {x : Nat} (hx : x < row.length) :
    (f.writeRow y row).pixel x y = row[x] := by
  rw [OutFrame.pixel, OutFrame.writeRow]
  simp only [lookupCell_insertCell_same, List.getD_eq_getElem _ _ hx]

theorem OutFrame.pixel_writeRow_ne (f : OutFrame) {y y' : Nat} (row : List Long) (x : Nat) (h : y' ≠ y) :
    (f.writeRow y row).pixel x y' = f.pixel x y' := by
  simp only [OutFrame.pixel, OutFrame.writeRow, lookupCell_insertCell_ne _ _ h]

@[simp] theorem length_composeRow (c : Cfg2) (a : Accumulators) (b : LineBuffers) (w : Nat) :
    (composeRow c a b w).length = w := length_forLine _ _

/-! ### Accumulators of a line -/

/-- The line scroll update keeps the vertical accumulator. -/
theorem lineScrollSlot_fracY (c : Cfg2) (m : Arena) (y : Nat) (L : Slot) (a : ScrollAcc) :
    (lineScrollSlot c m y L a).fracY = a.fracY := by
  unfold lineScrollSlot
  split
  · dsimp only
    split
    · simp [readLineRecord]
    · rfl
  · rfl

/-! ### Lengths of the line buffers -/

theorem LineBuffers.sized_reset : LineBuffers.reset.sized := by
  simp only [LineBuffers.sized, LineBuffers.reset, PerSlot.get_all, List.length_replicate, implies_true, and_self]

theorem LineBuffers.sized_setLayer {b : LineBuffers} (h : b.sized) (L : Slot) (line : List LayerDot)
    (hl : line.length ≤ Config.maxOutW) : (b.setLayer L line).sized := by
  refine ⟨fun M => ?_, h.2⟩
  simp only [LineBuffers.setLayer]
  by_cases hM : M = L
  · subst hM; rw [PerSlot.get_set_same, length_overlay _ _ (by rw [h.1]; exact hl), h.1]
  · rw [PerSlot.get_set_ne _ _ hM, h.1]

theorem LineBuffers.sized_setRotCoord {b : LineBuffers} (h : b.sized) (L : Slot) (line : List RotCoord)
    (hl : line.length ≤ Config.maxOutW) : (b.setRotCoord L line).sized := by
  obtain ⟨h1, h2, h3, h4, h5, h6, h7⟩ := h
  cases L with
  | rbg0 => exact ⟨h1, h2, h3, h4, h5, by rw [← h6]; exact length_overlay _ _ (by omega), h7⟩
  | nbg0 => exact ⟨h1, h2, h3, h4, h5, h6, by rw [← h7]; exact length_overlay _ _ (by omega)⟩
  | _ => exact ⟨h1, h2, h3, h4, h5, h6, h7⟩

theorem LineBuffers.sized_backgroundLayer {b : LineBuffers} (h : b.sized) (c : Cfg2) (m : Arena) (a : Accumulators)
    {w : Nat} (hw : w ≤ Config.maxOutW) (L : Slot) : (backgroundLayer c m a w b L).sized := by
  unfold backgroundLayer
  split
  · exact sized_setLayer h _ _ (by rw [length_forLine]; exact hw)
  · split
    · refine sized_setLayer (sized_setRotCoord h _ _ ?_) _ _ (by rw [length_forLine]; exact hw)
      rw [rotCoordLine, length_forLine]; exact hw
    · exact sized_setLayer h _ _ (by rw [length_forLine]; exact hw)

theorem LineBuffers.sized_windowsLine {b : LineBuffers} (h : b.sized) (c : Cfg2) (m : Arena) {w : Nat}
    (hw : w ≤ Config.maxOutW) (y : Nat) : (windowsLine c m w y b).sized := by
  obtain ⟨h1, h2, h3, h4, h5, h6⟩ := h
  have fits {α : Type} (f : Nat → α) {old : List α} (ho : old.length = Config.maxOutW) :
      (overlay (forLine w f) old).length = Config.maxOutW := by
    rw [length_overlay _ _ (by rw [length_forLine, ho]; exact hw), ho]
  refine ⟨fun L => ?_, h2, fun L => ?_, fits _ h4, fits _ h5, h6⟩
  · show ((b.layer.set .sprite _).get L).length = _
    by_cases hL : L = .sprite
    · subst hL; rw [PerSlot.get_set_same]; exact fits _ (h1 .sprite)
    · rw [PerSlot.get_set_ne _ _ hL, h1]
  · have := h3 L
    cases L <;> exact fits _ this

/-- A scanline keeps the lengths of the line buffers. -/
theorem LineBuffers.sized_lineBuffers {s : State} (h : s.buf.sized) (y : Nat) : (lineBuffers s y).sized := by
  have hw := outW_le s.timing
  have sprite : (spriteLayer s y).sized := by
    obtain ⟨h1, h2⟩ := sized_setLayer h .sprite
      (forLine s.timing.outW fun x => spriteLayerDot s.cfg2 s.mem (s.displayedWord x y)) (by rw [length_forLine]; exact hw)
    refine ⟨h1, ?_, h2.2⟩
    show (overlay _ s.buf.spr).length = _
    rw [length_overlay _ _ (by rw [length_forLine, h.2.1]; exact hw), h.2.1]
  unfold lineBuffers
  have fold (Ls : List Slot) : ∀ b : LineBuffers, b.sized →
      (Ls.foldl (backgroundLayer s.cfg2 s.mem (lineAcc s y) s.timing.outW) b).sized := by
    induction Ls with
    | nil => exact fun _ hb => hb
    | cons L Ls ih => exact fun b hb => ih _ (sized_backgroundLayer hb _ _ _ hw _)
  exact fold _ _ (sized_windowsLine sprite _ _ hw _)

/-! ### Resets -/

/-- What a logic reset answers, in every state. -/
theorem logicReset_eq (s : State) :
    logicReset s =
      .next
        { s.logicCleared with
          acc := frameInitAcc [] s.mem Accumulators.reset
          outFrame :=
            { width := 320, height := 224, fresh := s.freshCount, rows := [(0, List.replicate 320 blankPixel)] } } := by
  have h : (enterVActive s.logicCleared).cfg2.disp = false := by
    show Cfg2.disp [] = false
    decide
  rw [logicReset, enterHActive_active rfl, frameInit_if, renderScanline_blank (by exact h)]
  rfl

theorem softReset_eq (s : State) : softReset s = logicReset s := rfl

theorem hardReset_eq (s : State) : hardReset s = logicReset { s with mem := resetArena s.params } := rfl

end Sys2Proof.Machine
end

