-- ==== Sys2Proof/Laws/Legal.lean ====
section
/-! SUPPORT. Each operation of a step keeps a state legal. -/

namespace Sys2Proof.Machine

/-- Two states that agree on what `Legal` reads. -/
theorem legal_congr {s t : State} (h : s.Legal) (h1 : t.params = s.params) (h2 : t.mem.wf = true) (h3 : t.cfg2 = s.cfg2) (h4 : t.ctx = s.ctx)
  (h5 : t.reg1.cef = s.reg1.cef) (h6 : t.timing = s.timing) (h7 : t.outFrame = s.outFrame) (h8 : t.buf = s.buf) : t.Legal := by
  obtain ⟨a, b, c, d, e, f, g, i, j⟩ := h
  refine ⟨by rw [h1]; exact a, h2, by rw [h3]; exact c, ?_, ?_, ?_, ?_, ?_, by rw [h8]; exact j⟩
  · simpa [State.addressesAligned, h4] using d
  · simpa [State.marksExclusive, h4, h5] using e
  · simpa [State.requestTracked, h3, h6] using f
  · have : t.vt = s.vt := by simp [State.vt, h1, h6]
    simpa [State.lineInRange, h6, this] using g
  · simpa [State.frameSized, h6, h7] using i

/-- Logging keeps a state legal. -/
theorem legal_log {s : State} (h : s.Legal) (r) : (s.log r).Legal := legal_congr h rfl h.memory rfl rfl rfl rfl rfl rfl

theorem legal_memRead16 {s : State} (h : s.Legal) (r a) : (memRead16 s r a).1.Legal := by
  unfold memRead16
  split
  · exact legal_log h _
  · split
    · exact h
    · split
      · exact h
      · exact legal_log h _

/-- A bus read keeps a state legal. -/
theorem legal_busRead {s : State} (h : s.Legal) (r a w) : (busRead s r a w).Legal := by
  have k : ∀ (u : State) x, u.Legal → ({u with result := x} : State).Legal := fun u x h => legal_congr h rfl h.memory rfl rfl rfl rfl rfl rfl
  cases w with
  | byte =>
    apply k
    unfold memRead8; split
    · exact h
    · exact legal_log h _
  | word => exact k _ _ (legal_memRead16 h _ _)
  | long => exact k _ _ (legal_memRead16 (legal_memRead16 h _ _) _ _)

/-- Beginning a frame keeps a state legal. -/
theorem legal_beginFrame {s : State} (h : s.Legal) : (beginFrame s).Legal := by
  obtain ⟨a, b, c, d, e, f, g, i, j⟩ := h
  exact ⟨a, b, c, ⟨rfl, rfl⟩, fun _ => rfl, f, g, i, j⟩

/-- No field is wider than a word. -/
theorem fieldWidth_le (k w : Nat) (h : fieldWidth k = some w) : w ≤ 16 := by
  have h1 : ∀ i, i < 128 → ∀ w, globalFieldWidths[i]? = some w → w ≤ 16 := by
    have : ∀ i : Fin 128, (globalFieldWidths[i.val]?).all (· ≤ 16) = true := by decide
    intro i hi w hw; have := this ⟨i, hi⟩; simpa [hw] using this
  have h2 : ∀ i, i < 64 → ∀ w, layerFieldWidths[i]? = some w → w ≤ 16 := by
    have : ∀ i : Fin 64, (layerFieldWidths[i.val]?).all (· ≤ 16) = true := by decide
    intro i hi w hw; have := this ⟨i, hi⟩; simpa [hw] using this
  unfold fieldWidth at h
  split at h
  · exact h1 _ (by omega) _ h
  · split at h
    · split at h
      · next heq => injection h with h; subst h; exact h2 _ (by omega) _ heq
      · cases h
    · cases h

/-- A stored value fits its field. -/
theorem lowBits_lt (v : Word) (w : Nat) (hw : w ≤ 16) : (lowBits v w).toNat < 2 ^ w := by
  rw [lowBits, BitVec.toNat_and, BitVec.toNat_ofNat]
  have : 2 ^ w ≤ 2 ^ 16 := Nat.pow_le_pow_right (by omega) hw
  have h0 := Nat.two_pow_pos w
  rw [Nat.mod_eq_of_lt (by omega)]
  rw [Nat.and_two_pow_sub_one_eq_mod]
  exact Nat.mod_lt _ h0

/-- Storing a field keeps the configuration well formed. -/
theorem wf_store {c : Cfg2} (h : c.wf = true) (k w : Nat) (v : Word) (hw : fieldWidth k = some w) : (c.store k w v).wf = true := by
  simp only [Cfg2.wf, Bool.and_eq_true] at h ⊢
  refine ⟨cellsCanonical_writeCell _ _ h.1, ?_⟩
  rw [List.all_eq_true] at h ⊢
  intro e he
  rcases mem_writeCell he with rfl | he
  · simp only [hw, decide_eq_true_eq]; exact lowBits_lt _ _ (fieldWidth_le _ _ hw)
  · exact h.2 e he

/-- Storing a background register keeps a state legal. -/
theorem legal_storeField {s : State} (h : s.Legal) (k w : Nat) (v : Word) (hw : fieldWidth k = some w) : (s.storeField k w v).Legal := by
  have hwf := wf_store h.config k w v hw
  obtain ⟨a, b, c, d, e, f, g, i, j⟩ := h
  by_cases hr : isResolutionField k = true
  · have ht : s.storeField k w v = { s with cfg2 := s.cfg2.store k w v, timing := { s.timing with resPending := resolutionPending (s.cfg2.store k w v) s.timing } } := by
      simp [State.storeField, hr]
    rw [ht]
    exact ⟨a, b, hwf, d, e, rfl, g, i, j⟩
  · have ht : s.storeField k w v = { s with cfg2 := s.cfg2.store k w v } := by
      simp only [Bool.not_eq_true] at hr
      simp [State.storeField, hr]
    rw [ht]
    refine ⟨a, b, hwf, d, e, ?_, g, i, j⟩
    have hk : k ≠ 1 ∧ k ≠ 2 ∧ k ≠ 3 := by simpa [isResolutionField, and_assoc] using hr
    have hb : ∀ k' w', k' ≠ k → (s.cfg2.store k w v).bits k' w' = s.cfg2.bits k' w' := by
      intro k' w' hne; simp only [Cfg2.bits, Cfg2.store]; rw [readCell_writeCell_ne _ _ _ hne]
    have e1 : (s.cfg2.store k w v).hres = s.cfg2.hres := hb 1 _ (Ne.symm hk.1)
    have e2 : (s.cfg2.store k w v).vres = s.cfg2.vres := hb 2 _ (Ne.symm hk.2.1)
    have e3 : (s.cfg2.store k w v).lsmd = s.cfg2.lsmd := hb 3 _ (Ne.symm hk.2.2)
    show s.timing.resPending = resolutionPending (s.cfg2.store k w v) s.timing
    rw [f]
    simp only [resolutionPending, e1, e2, e3]

theorem legal_memWrite16 {s : State} (h : s.Legal) (r a v) : (memWrite16 s r a v).Legal := by
  unfold memWrite16
  split
  · exact legal_log h _
  · have mem (id) : ({ s with mem := s.mem.write16 id a v } : State).Legal := legal_congr h rfl (Arena.wf_write16 _ _ _ h.memory) rfl rfl rfl rfl rfl rfl
    cases r with
    | reg1 =>
      have reg (r : Reg1) (hr : r.cef = s.reg1.cef) : (s.withReg1 r).Legal := legal_congr h rfl h.memory rfl rfl hr rfl rfl rfl
      show (reg1Write s a v).Legal
      unfold reg1Write
      split
      · exact reg _ rfl
      · exact legal_congr h rfl h.memory rfl rfl rfl rfl rfl rfl
      · unfold writePtmr; simp only; split
        · exact legal_beginFrame (reg _ rfl)
        · exact reg _ rfl
      · exact reg _ rfl
      · exact reg _ rfl
      · exact reg _ rfl
      · exact legal_log h _
    | reg2 =>
      show (reg2Write s a v).Legal
      unfold reg2Write; split
      · next w hw => exact legal_storeField h _ _ _ hw
      · exact legal_log h _
    | vram1 => exact mem _
    | fb => exact mem _
    | vram2 => exact mem _
    | cram => exact mem _

/-- A bus write keeps a state legal. -/
theorem legal_busWrite {s : State} (h : s.Legal) (r a w v) : (busWrite s r a w v).Legal := by
  cases w with
  | byte =>
    show (memWrite8 s r a _).Legal
    unfold memWrite8; split
    · exact legal_congr h rfl (Arena.wf_write8 _ _ _ h.memory) rfl rfl rfl rfl rfl rfl
    · exact legal_log h _
  | word => exact legal_memWrite16 h _ _ _
  | long => exact legal_memWrite16 (legal_memWrite16 h _ _ _) _ _ _

/-- An instruction keeps a state legal. -/
theorem legal_exec {s t : State} {i : Instr} (h : s.Legal) (e : exec i s = .next t) : t.Legal := by
  rcases exec_cases e with ⟨c, rs, ws, rfl, h1, h2, h3⟩ | ⟨rs, rfl⟩
  · obtain ⟨a, b, c', d, e, f, g, i, j⟩ := h
    refine ⟨a, Arena.wf_writeWords _ _ b, c', h2 d, ?_, f, g, i, j⟩
    intro hr; exact e (h1 ▸ hr)
  · obtain ⟨a, b, c', d, e, f, g, i, j⟩ := h
    exact ⟨a, b, c', d, fun hr => (by cases hr), f, g, i, j⟩

/-- A grant of command steps keeps a state legal. -/
theorem legal_commands {s t : State} (n : Nat) (h : s.Legal) (e : processCommands n s = .next t) : t.Legal := by
  unfold processCommands at e
  split at e
  · injection e with e; exact e ▸ h
  · next n =>
    split at e
    · unfold commandStep runCommand at e
      rw [andThen_eq_next] at e
      obtain ⟨u, e1, e2⟩ := e
      have hk : (s.keepGrant n).Legal := by
        cases n with
        | zero => exact h
        | succ n => exact legal_congr h rfl h.memory rfl rfl rfl rfl rfl rfl
      have hu := legal_exec hk e1
      split at e2
      · injection e2 with e2; exact e2 ▸ hu
      · exact legal_exec hu e2
    · injection e with e; exact e ▸ h

/-- The erase keeps a state legal. -/
theorem legal_erase {s : State} (h : s.Legal) : s.eraseDisplay.Legal :=
  legal_congr h rfl (Arena.wf_fillPixels _ _ _ h.memory) rfl rfl rfl rfl rfl rfl

/-- The swap keeps a state legal. -/
theorem legal_swap {s t : State} (h : s.Legal) (e : swap s = .next t) : t.Legal := by
  rw [(swap_eq_next.1 e).2]
  have h1 : s.serveManualErase.Legal := by
    unfold State.serveManualErase; split
    · exact legal_erase (legal_congr h rfl h.memory rfl rfl rfl rfl rfl rfl)
    · exact h
  have h2 : s.serveManualErase.toggleDraw.Legal := legal_congr h1 rfl h1.memory rfl rfl rfl rfl rfl rfl
  unfold State.restartIfContinuous; split
  · exact legal_beginFrame h2
  · exact h2

/-- The row of the vertical table in force is admissible (43_display_timing.md rule R283). -/
theorem vTimesValid_of_params {p : Params} (h : paramsValid p = true) (v : BitVec 2) : vTimesValid ((vtTableOf p).at v) (outHOf v) = true := by
  simp only [paramsValid, Bool.and_eq_true] at h
  have ht : vtTableValid (vtTableOf p) = true := by
    unfold vtTableOf; split
    · exact h.1.1.1.2
    · exact h.1.1.1.1.2
  simp only [vtTableValid, Bool.and_eq_true] at ht
  obtain ⟨⟨⟨h0, h1⟩, h2⟩, h3⟩ := ht
  have hv : v = 0 ∨ v = 1 ∨ v = 2 ∨ v = 3 := by
    have : ∀ v : BitVec 2, v = 0 ∨ v = 1 ∨ v = 2 ∨ v = 3 := by decide
    exact this v
  rcases hv with rfl | rfl | rfl | rfl
  · exact h0
  · exact h1
  · exact h2
  · exact h3

/-- The thresholds of the vertical table in force are in order. -/
theorem vt_ordered {s : State} (h : paramsValid s.params = true) : s.vt.bottomBorder = s.timing.outH ∧ 0 < s.vt.bottomBorder ∧ s.vt.bottomBorder < s.vt.blankingAndSync ∧ s.vt.blankingAndSync < s.vt.topBorder ∧ s.vt.topBorder < s.vt.lastLine ∧ s.vt.lastLine + 1 = s.vt.total ∧ 224 ≤ s.timing.outH := by
  have := vTimesValid_of_params h s.timing.actVRES
  simp only [vTimesValid, Bool.and_eq_true, decide_eq_true_eq] at this
  refine ⟨this.1.1.1.1.1, this.1.1.1.1.2, this.1.1.1.2, this.1.1.2, this.1.2, this.2, ?_⟩
  unfold Timing.outH outHOf; split <;> omega

/-- A scanline of the displayed area keeps a state legal. -/
theorem legal_renderScanline {s t : State} (h : s.Legal) (hy : s.timing.vphase = .active) (e : renderScanline s s.timing.vcnt = .next t) : t.Legal := by
  have hl := h.line
  simp only [State.lineInRange, hy] at hl
  have hvt := vt_ordered h.params
  have hrow : s.timing.vcnt < s.timing.outH := by omega
  obtain ⟨a, b, c, d, e', f, g, i, j⟩ := h
  have frame : ∀ row : List Long, row.length = s.timing.outW → ∀ r ∈ (s.outFrame.writeRow s.timing.vcnt row).rows, r.1 < s.timing.outH ∧ r.2.length = s.timing.outW := by
    intro row hrw r hr
    rcases mem_insertCell hr with rfl | hr
    · exact ⟨hrow, hrw⟩
    · exact i.2.2 r hr
  rcases renderScanline_eq_next.1 e with ⟨-, rfl⟩ | ⟨-, -, -, rfl⟩
  · exact ⟨a, b, c, d, e', f, g, ⟨i.1, i.2.1, frame _ (by simp)⟩, j⟩
  · exact ⟨a, b, c, d, e', f, g, ⟨i.1, i.2.1, frame _ (by simp)⟩, LineBuffers.sized_lineBuffers j _⟩

/-- A logic reset makes a legal state. -/
theorem legal_resets {s t : State} (hp : paramsValid s.params = true) (hm : s.mem.wf = true) (e : logicReset s = .next t) : t.Legal := by
  rw [logicReset_eq] at e
  injection e with e; subst e
  have hvt := vt_ordered (s := s.logicCleared) hp
  have hH : s.logicCleared.timing.outH = 224 := rfl
  refine ⟨hp, hm, rfl, ⟨rfl, rfl⟩, (fun h => by cases h), ?_, ?_, ⟨rfl, rfl, ?_⟩, LineBuffers.sized_reset⟩
  · show false = resolutionPending [] Timing.reset; decide
  · show (0 < s.logicCleared.vt.bottomBorder) ∧ (false = true ↔ s.logicCleared.vt.bottomBorder ≤ 0 + 1)
    simp; omega
  · intro row hr
    rw [List.mem_singleton] at hr; subst hr; exact ⟨show 0 < 224 by decide, List.length_replicate⟩

theorem legal_hphase {s : State} (h : s.Legal) (p : HPhase) : (s.withTiming { s.timing with hphase := p }).Legal := by
  obtain ⟨a, b, c, d, e, f, g, i, j⟩ := h
  exact ⟨a, b, c, d, e, f, g, i, j⟩

theorem legal_emit {s : State} (h : s.Legal) (r) : (s.emit r).Legal := legal_congr h rfl h.memory rfl rfl rfl rfl rfl rfl

/-- Entering `HLastDot` keeps a state legal. -/
theorem legal_lastDot {s t : State} (h : s.Legal) (e : enterHLastDot s = .next t) : t.Legal := by
  unfold enterHLastDot at e
  rw [andThen_eq_next] at e
  obtain ⟨u, e1, e2⟩ := e
  injection e2 with e2; subst e2
  have hvt := vt_ordered h.params
  have hL := h.line
  obtain ⟨a, b, c, d, e', f, g, i, j⟩ := h
  unfold State.lineInRange at hL
  -- general rebuild
  have mk : ∀ v n p, (∀ w : State, w.vt = s.vt → w.timing.vphase = v → w.timing.vcnt = n → w.timing.periphDone = p → w.lineInRange) → ∀ m : Arena, m.wf = true → ∀ o,
     ({ s with timing := { s.timing with vphase := v, vcnt := n, periphDone := p }, mem := m, out := o } : State).Legal := by
    intro v n p hl m hm o
    exact ⟨a, hm, c, d, e', f, hl _ rfl rfl rfl rfl, i, j⟩
  cases hv : s.timing.vphase with
  | active =>
    rw [hv] at hL
    simp only at hL
    by_cases hb : s.vt.bottomBorder ≤ s.timing.vcnt + 1
    · rw [verticalTransition_active_leave (by exact hv) (by exact hb), enterVBottomBorder, andThen_eq_next] at e1
      obtain ⟨w, ew, e1⟩ := e1
      injection e1 with e1; subst e1
      rw [peripheralCheck_idle]
      · unfold eraseIfConfigured at ew
        have go : ∀ m : Arena, m.wf = true → ∀ o, ({ s with timing := { s.timing with vphase := .bottomBorder, vcnt := s.timing.vcnt + 1 }, mem := m, out := o } : State).Legal := by
          intro m hm o
          refine mk .bottomBorder (s.timing.vcnt + 1) s.timing.periphDone ?_ m hm o
          intro w h1 h2 h3 h4
          simp only [State.lineInRange, h2, h1, h3]; omega
        split at ew
        · rw [eraseActive_eq_next] at ew
          rw [ew.2]
          exact go _ (Arena.wf_fillPixels _ _ _ b) _
        · injection ew with ew; subst ew
          exact go _ b _
      · intro hh
        exfalso
        unfold eraseIfConfigured at ew
        split at ew
        · rw [eraseActive_eq_next] at ew
          rw [ew.2] at hh; cases hh
        · injection ew with ew; subst ew; cases hh
    · rw [verticalTransition_active_stay (by exact hv) (by show _ < _; exact Nat.lt_of_not_le hb)] at e1
      injection e1 with e1; subst e1
      by_cases hp : s.timing.periphDone = false ∧ s.vt.bottomBorder ≤ s.timing.vcnt + 2
      · rw [peripheralCheck_raise (by exact hv) (by exact hp.1) (by exact hp.2)]
        have := mk .active (s.timing.vcnt+1) true (by
          intro w h1 h2 h3 h4
          simp only [State.lineInRange, h2, h1, h3, h4, Config.periphLeadLines, true_iff]; omega) s.mem b (s.out ++ [.trigger .peripheralRead])
        rw [← hv] at this
        exact this
      · rw [peripheralCheck_idle (by intro _ h2; exact Nat.not_le.1 (fun h3 => hp ⟨h2, h3⟩))]
        have := mk .active (s.timing.vcnt+1) s.timing.periphDone (by
          intro w h1 h2 h3 h4
          simp only [State.lineInRange, h2, h1, h3, h4, Config.periphLeadLines] at hL ⊢
          cases hpd : s.timing.periphDone <;> simp [hpd] at hL hp ⊢ <;> omega) s.mem b s.out
        rw [← hv] at this
        exact this
  | bottomBorder =>
    rw [hv] at hL
    simp only at hL
    by_cases hb : s.vt.blankingAndSync ≤ s.timing.vcnt + 1
    · rw [verticalTransition_bottom_leave (by exact hv) (by exact hb)] at e1
      injection e1 with e1; subst e1
      rw [peripheralCheck_idle (by intro hh; cases hh)]
      exact mk .blankingAndSync (s.timing.vcnt+1) s.timing.periphDone (by
          intro w h1 h2 h3 h4
          simp only [State.lineInRange, h2, h1, h3]; omega) s.mem b s.out
    · rw [verticalTransition_bottom_stay (by exact hv) (by exact Nat.lt_of_not_le hb)] at e1
      injection e1 with e1; subst e1
      rw [peripheralCheck_idle (by intro hh; exact absurd (hv.symm.trans hh) (by decide))]
      have := mk .bottomBorder (s.timing.vcnt+1) s.timing.periphDone (by
          intro w h1 h2 h3 h4
          simp only [State.lineInRange, h2, h1, h3]; omega) s.mem b s.out
      rw [← hv] at this; exact this
  | blankingAndSync =>
    rw [hv] at hL
    simp only at hL
    by_cases hb : s.vt.topBorder ≤ s.timing.vcnt + 1
    · rw [verticalTransition_blanking_leave (by exact hv) (by exact hb)] at e1
      injection e1 with e1; subst e1
      by_cases hr : s.timing.resPending = true
      · rw [enterVTopBorder_pending (by exact hr), peripheralCheck_idle (by intro hh; cases hh)]
        refine ⟨a, b, c, d, e', ?_, trivial, ⟨rfl, rfl, fun r hr => by cases hr⟩, j⟩
        show false = resolutionPending _ _
        simp [resolutionPending]; exact ⟨rfl, rfl, rfl⟩
      · rw [enterVTopBorder_idle (by exact Bool.not_eq_true _ ▸ hr), peripheralCheck_idle (by intro hh; cases hh)]
        exact mk .topBorder (s.timing.vcnt+1) s.timing.periphDone (by
          intro w h1 h2 h3 h4
          simp only [State.lineInRange, h2]) s.mem b s.out
    · rw [verticalTransition_blanking_stay (by exact hv) (by exact Nat.lt_of_not_le hb)] at e1
      injection e1 with e1; subst e1
      rw [peripheralCheck_idle (by intro hh; exact absurd (hv.symm.trans hh) (by decide))]
      have := mk .blankingAndSync (s.timing.vcnt+1) s.timing.periphDone (by
          intro w h1 h2 h3 h4
          simp only [State.lineInRange, h2, h1, h3]; omega) s.mem b s.out
      rw [← hv] at this; exact this
  | topBorder =>
    by_cases hb : s.vt.lastLine ≤ s.timing.vcnt + 1
    · rw [verticalTransition_top_leave (by exact hv) (by exact hb)] at e1
      injection e1 with e1; subst e1
      rw [peripheralCheck_idle (by intro hh; cases hh)]
      exact mk .lastLine (s.timing.vcnt+1) s.timing.periphDone (by
          intro w h1 h2 h3 h4
          simp only [State.lineInRange, h2, h1, h3]; omega) s.mem b _
    · rw [verticalTransition_top_stay (by exact hv) (by exact Nat.lt_of_not_le hb)] at e1
      injection e1 with e1; subst e1
      rw [peripheralCheck_idle (by intro hh; exact absurd (hv.symm.trans hh) (by decide))]
      have := mk .topBorder (s.timing.vcnt+1) s.timing.periphDone (by
          intro w h1 h2 h3 h4
          simp only [State.lineInRange, h2]) s.mem b s.out
      rw [← hv] at this; exact this
  | lastLine =>
    rw [hv] at hL
    simp only at hL
    by_cases hb : s.vt.total ≤ s.timing.vcnt + 1
    · rw [verticalTransition_last_leave (by exact hv) (by exact hb)] at e1
      injection e1 with e1; subst e1
      rw [peripheralCheck_idle (by intro _ _; show 0 + 1 < s.vt.bottomBorder; omega)]
      exact mk .active 0 false (by
          intro w h1 h2 h3 h4
          simp only [State.lineInRange, h2, h1, h3, h4, Config.periphLeadLines]; simp; omega) s.mem b _
    · rw [verticalTransition_last_stay (by exact hv) (by exact Nat.lt_of_not_le hb)] at e1
      injection e1 with e1; subst e1
      rw [peripheralCheck_idle (by intro hh; exact absurd (hv.symm.trans hh) (by decide))]
      have := mk .lastLine (s.timing.vcnt+1) s.timing.periphDone (by
          intro w h1 h2 h3 h4
          simp only [State.lineInRange, h2, h1, h3]; omega) s.mem b s.out
      rw [← hv] at this; exact this

/-- A phase event keeps a state legal. -/
theorem legal_phase {s t : State} (h : s.Legal) (e : phaseEvent s = .next t) : t.Legal := by
  obtain ⟨u, e, rfl⟩ := phaseEvent_eq_next.1 e
  suffices hu : u.Legal from legal_congr hu rfl hu.memory rfl rfl rfl rfl rfl rfl
  have h' : s.nextPhase.Legal := legal_hphase h _
  generalize s.nextPhase = n at *
  cases hh : nextHPhase s.timing.hphase <;> rw [hh] at e <;> simp only [enterHPhase] at e
  · unfold enterHActive at e
    split at e
    · next hv =>
      rw [frameInit_if] at e
      generalize (if n.timing.vcnt = 0 then frameInitAcc n.cfg2 n.mem n.acc else n.acc) = a at e
      exact legal_renderScanline (s := { n with acc := a }) (legal_congr h' rfl h'.memory rfl rfl rfl rfl rfl rfl) hv e
    · injection e with e; exact e ▸ h'
  · injection e with e; rw [← e]
    unfold enterHRightBorder; split
    · exact legal_emit h' _
    · exact h'
  · injection e with e; exact e ▸ h'
  · unfold enterHVBlankOut at e; split at e
    · refine legal_swap ?_ e
      exact legal_congr h' rfl h'.memory rfl rfl rfl rfl rfl rfl
    · injection e with e; exact e ▸ h'
  · injection e with e; exact e ▸ h'
  · exact legal_lastDot h' e

/-- The reset memories are in canonical form. -/
theorem resetArena_wf {p : Params} (h : paramsValid p = true) : (resetArena p).wf = true := by
  simp only [paramsValid, Bool.and_eq_true] at h
  simp only [resetArena, Arena.wf, h]
  rfl

end Sys2Proof.Machine
end

