-- ==== Sys2Proof/Laws/PerInstr.lean ====
section
/-! SUPPORT. Statements made per instruction, one lemma for each constructor of `Instr`. -/

namespace Sys2Proof.Laws

/-! ### RowWord -/

/-- The control word of an instruction by itself matches the mask and match value of its row, and its words decode to
it, as the operation or as the jump mode. -/
def RowWord.Statement (i : Instr) : Prop :=
  (encodeInstr i).ctrl &&& rowMask i = rowMatch i ∧
    (i.wellFormed = true →
      if i.isJump then (decode (encodeInstr i)).jump = some i else (decode (encodeInstr i)).op = i)

/-- An operation's control word without modifiers. -/
theorem ctrlWord_opcodeRow (opc : BitVec 4) (zp : BitVec 4) (v f : Bool) :
    ctrlWord false false 0 zp v f opc &&& 0xC00F = opc.setWidth 16 := by
  apply BitVec.eq_of_getLsbD_eq
  intro i hi
  simp only [ctrlWord, BitVec.getLsbD_and, BitVec.getLsbD_append, BitVec.getLsbD_setWidth, hi, decide_true, Bool.true_and]
  have mask : ∀ k : Fin 16, (0xC00F : Word).getLsbD k = (decide (k.val < 4) || decide (14 ≤ k.val)) := by decide
  rw [mask ⟨i, hi⟩]
  by_cases h : i < 4
  · simp [h]
  · have h4 : opc.getLsbD i = false := BitVec.getLsbD_of_ge _ _ (by omega)
    by_cases h' : 14 ≤ i
    · have : i = 14 ∨ i = 15 := by omega
      rcases this with rfl | rfl <;> simp
    · simp [h, h', h4]

/-- The words of an instruction decode to it. -/
theorem decode_encodeInstr (i : Instr) (hw : i.wellFormed = true) :
    if i.isJump then (decode (encodeInstr i)).jump = some i else (decode (encodeInstr i)).op = i := by
  split
  · next h =>
    obtain ⟨h1, h2, h3⟩ := encodeOp_jumpFields i (jumpField i) (linkField i) (by rintro rfl; cases h)
    simp only [encodeInstr, decode, h1, decodeJumpMode_of_fields i _ h hw h2 h3, Bool.false_eq_true, if_false]
  · next h => exact decodeOp_encodeOp i _ _ (by simpa using h)

theorem RowWord.endList : RowWord.Statement .endList := ⟨by decide, decode_encodeInstr _⟩

theorem RowWord.skip : RowWord.Statement .skip := ⟨by decide, decode_encodeInstr _⟩

theorem RowWord.nspr (d : DrawOps) (t : TexOps) (va : Vertex) : RowWord.Statement (.nspr d t va) :=
  ⟨ctrlWord_opcodeRow _ _ _ _, decode_encodeInstr _⟩

theorem RowWord.sspr (d : DrawOps) (t : TexOps) (zp : BitVec 4) (va : Vertex) (vb : Vertex) (vc : Vertex) : RowWord.Statement (.sspr d t zp va vb vc) :=
  ⟨ctrlWord_opcodeRow _ _ _ _, decode_encodeInstr _⟩

theorem RowWord.dspr (d : DrawOps) (t : TexOps) (va : Vertex) (vb : Vertex) (vc : Vertex) (vd : Vertex) : RowWord.Statement (.dspr d t va vb vc vd) :=
  ⟨ctrlWord_opcodeRow _ _ _ _, decode_encodeInstr _⟩

theorem RowWord.poly (d : DrawOps) (va : Vertex) (vb : Vertex) (vc : Vertex) (vd : Vertex) : RowWord.Statement (.poly d va vb vc vd) :=
  ⟨ctrlWord_opcodeRow _ _ _ _, decode_encodeInstr _⟩

theorem RowWord.plin (d : DrawOps) (va : Vertex) (vb : Vertex) (vc : Vertex) (vd : Vertex) : RowWord.Statement (.plin d va vb vc vd) :=
  ⟨ctrlWord_opcodeRow _ _ _ _, decode_encodeInstr _⟩

theorem RowWord.line (d : DrawOps) (va : Vertex) (vb : Vertex) : RowWord.Statement (.line d va vb) :=
  ⟨ctrlWord_opcodeRow _ _ _ _, decode_encodeInstr _⟩

theorem RowWord.uclip (p : ClipCorner) (q : ClipCorner) : RowWord.Statement (.uclip p q) :=
  ⟨ctrlWord_opcodeRow _ _ _ _, decode_encodeInstr _⟩

theorem RowWord.sclip (q : ClipCorner) : RowWord.Statement (.sclip q) :=
  ⟨ctrlWord_opcodeRow _ _ _ _, decode_encodeInstr _⟩

theorem RowWord.lcoord (va : Vertex) : RowWord.Statement (.lcoord va) :=
  ⟨ctrlWord_opcodeRow _ _ _ _, decode_encodeInstr _⟩

theorem RowWord.unrec3 : RowWord.Statement .unrec3 := ⟨by decide, decode_encodeInstr _⟩

theorem RowWord.unrec7 : RowWord.Statement .unrec7 := ⟨by decide, decode_encodeInstr _⟩

theorem RowWord.unrecB : RowWord.Statement .unrecB := ⟨by decide, decode_encodeInstr _⟩

theorem RowWord.unrecC : RowWord.Statement .unrecC := ⟨by decide, decode_encodeInstr _⟩

theorem RowWord.unrecD : RowWord.Statement .unrecD := ⟨by decide, decode_encodeInstr _⟩

theorem RowWord.unrecE : RowWord.Statement .unrecE := ⟨by decide, decode_encodeInstr _⟩

theorem RowWord.unrecF : RowWord.Statement .unrecF := ⟨by decide, decode_encodeInstr _⟩

theorem RowWord.jumpNext : RowWord.Statement .jumpNext := ⟨by decide, decode_encodeInstr _⟩

theorem RowWord.jumpAssign (link : Word) : RowWord.Statement (.jumpAssign link) :=
  ⟨by show ctrlWord false false 1 0 false false 0 &&& 0xB000 = 0x1000; decide, decode_encodeInstr _⟩

theorem RowWord.jumpAssignZero : RowWord.Statement .jumpAssignZero := ⟨by decide, decode_encodeInstr _⟩

theorem RowWord.jumpCall (link : Word) : RowWord.Statement (.jumpCall link) :=
  ⟨by show ctrlWord false false 2 0 false false 0 &&& 0xB000 = 0x2000; decide, decode_encodeInstr _⟩

theorem RowWord.jumpReturn : RowWord.Statement .jumpReturn := ⟨by decide, decode_encodeInstr _⟩

end Sys2Proof.Laws
end

