-- ==== Sys2Proof/Laws/Registers.lean ====
section
/-! SUPPORT. A field of `Cfg2` as the word a bus read of its register gives. -/

namespace Sys2Proof.Machine

/-- A word read of a register of REG2 that holds a field gives the field (30_encoding.md rule R145). -/
theorem memRead16_field (s : State) {k : Nat} (h : (fieldWidth k).isSome = true) :
    memRead16 s .reg2 (2 * k) = (s, readCell unlistedField s.cfg2 k) := by
  obtain ⟨w, hw⟩ := Option.isSome_iff_exists.1 h
  have h0 : 2 * k % 2 ≠ 1 := by omega
  have h1 : 2 * k / 2 = k := by omega
  simp only [memRead16, if_neg h0, State.memOf, State.regWord, State.reg2Word, h1, hw]

theorem num_eq_read (s : State) {k : Nat} (w : Nat) (h : (fieldWidth k).isSome = true) :
    s.cfg2.num k w = (memRead16 s .reg2 (2 * k)).2.toNat % 2 ^ w := by
  rw [memRead16_field s h, Cfg2.num, Cfg2.bits, BitVec.toNat_setWidth]

theorem bits_eq_read (s : State) {k : Nat} (w : Nat) (h : (fieldWidth k).isSome = true) :
    (s.cfg2.bits k w).toNat = (memRead16 s .reg2 (2 * k)).2.toNat % 2 ^ w := num_eq_read s w h

theorem flag_eq_read (s : State) {k : Nat} (h : (fieldWidth k).isSome = true) :
    (s.cfg2.flag k).toNat = (memRead16 s .reg2 (2 * k)).2.toNat % 2 := by
  rw [memRead16_field s h, Cfg2.flag, BitVec.getLsbD, Nat.testBit_zero]
  rcases Nat.mod_two_eq_zero_or_one (readCell unlistedField s.cfg2 k).toNat with e | e <;> simp [e]

/-- A signed field of 9 bits (10_state.md rule R59). -/
theorem toInt_nine (v : BitVec 9) : v.toInt = if v.toNat < 256 then (v.toNat : Int) else (v.toNat : Int) - 512 := by
  rw [BitVec.toInt_eq_toNat_cond]
  split <;> split <;> omega

end Sys2Proof.Machine
end

