-- ==== Sys2Proof/Laws/Render.lean ====
section
/-! SUPPORT. What the parts of a rendered line leave: a line of a buffer, a background layer, a window, the ranked
slots; and what a bus read leaves. -/

namespace Sys2Proof.Machine

/-! ### Lines and layers -/

/-- Inside the line a buffer holds the line's value. -/
theorem getD_overlay_forLine {α : Type} (w : Nat) (f : Nat → α) (old : List α) (d : α) {x : Nat} (h : x < w) :
    (overlay (forLine w f) old).getD x d = f x := by
  rw [getD_overlay _ _ _ (by rw [length_forLine]; exact h), getElem_forLine]

/-- A background layer writes its own layer buffer and, of the rotation slots, its own coordinates; nothing else. -/
theorem backgroundLayer_frame (c : Cfg2) (m : Arena) (a : Accumulators) (w : Nat) (b : LineBuffers) (L : Slot) :
    let t := backgroundLayer c m a w b L
    t.spr = b.spr ∧ t.win = b.win ∧ t.winCC = b.winCC ∧ t.winRP = b.winRP ∧
      (∀ M, M ≠ L → t.layer.get M = b.layer.get M) ∧ (L ≠ .rbg0 → t.rotCoord1 = b.rotCoord1) ∧
      (L ≠ .nbg0 → t.rotCoord2 = b.rotCoord2) := by
  unfold backgroundLayer
  split
  · exact ⟨rfl, rfl, rfl, rfl, fun M h => PerSlot.get_set_ne _ _ h, fun _ => rfl, fun _ => rfl⟩
  · split
    · cases L <;>
        exact ⟨rfl, rfl, rfl, rfl, fun M h => PerSlot.get_set_ne _ _ h,
          fun h => by first | rfl | exact absurd rfl h, fun h => by first | rfl | exact absurd rfl h⟩
    · exact ⟨rfl, rfl, rfl, rfl, fun M h => PerSlot.get_set_ne _ _ h, fun _ => rfl, fun _ => rfl⟩

/-! ### Colours and windows -/

theorem channel5_toNat (c : BitVec 5) : (channel5 c).toNat = c.toNat * 8 := by revert c; decide

theorem insideWindow_iff (m : Arena) (w : WindowRegs) (y x : Nat) :
    insideWindow m w y x = true ↔
      w.sy ≤ y ∧ y ≤ w.ey ∧ (windowRange m w y).1 ≤ x ∧ x ≤ (windowRange m w y).2 := by
  simp [insideWindow, and_assoc]

/-! ### The ranked slots -/

theorem mem_insertByPriority (pri : Slot → Nat) (L M : Slot) (l : List Slot) :
    M ∈ insertByPriority pri L l ↔ M = L ∨ M ∈ l := by
  induction l with
  | nil => simp [insertByPriority]
  | cons N rest ih =>
    unfold insertByPriority
    split
    · simp only [List.mem_cons, ih, or_left_comm]
    · simp

/-- Inserting a slot of a higher number keeps the order of falling priority, rising number among equals. -/
theorem pairwise_insertByPriority (pri : Slot → Nat) (L : Slot) (l : List Slot) (hn : ∀ M ∈ l, M.number < L.number)
    (hp : l.Pairwise fun P Q => pri Q < pri P ∨ (pri Q = pri P ∧ P.number < Q.number)) :
    (insertByPriority pri L l).Pairwise fun P Q => pri Q < pri P ∨ (pri Q = pri P ∧ P.number < Q.number) := by
  induction l with
  | nil => simp [insertByPriority]
  | cons N rest ih =>
    have h0 := hn N List.mem_cons_self
    obtain ⟨h1, h2⟩ := List.pairwise_cons.1 hp
    unfold insertByPriority
    split
    · refine List.pairwise_cons.2 ⟨fun M hM => ?_, ih (fun M hM => hn M (List.mem_cons_of_mem _ hM)) h2⟩
      rcases (mem_insertByPriority pri L M rest).1 hM with rfl | hM
      · omega
      · exact h1 M hM
    · refine List.pairwise_cons.2 ⟨fun M hM => ?_, hp⟩
      rcases List.mem_cons.1 hM with rfl | hM
      · omega
      · have := h1 M hM; omega

/-! ### Bus reads -/

/-- A word read appends records and changes nothing else. -/
theorem memRead16_diag (s : State) (r : Region) (a : Nat) :
    ∃ records, (memRead16 s r a).1 = { s with diag := s.diag ++ records } := by
  unfold memRead16
  split
  · exact ⟨_, rfl⟩
  · split
    · exact ⟨[], by simp⟩
    · split
      · exact ⟨[], by simp⟩
      · exact ⟨_, rfl⟩

end Sys2Proof.Machine
end

