-- ==== Sys2Proof/Tests/Slice0.lean ====
section
/-! SUPPORT. Tests of the model: ill-formed terms, decoding of words written out from the encodings, one step per
instruction, vectors of 95_test_vectors.md, and a witness for the hypotheses of each obligation. -/

namespace Sys2Proof.Tests

open Sys2Proof.Machine

set_option Elab.async false

/-! ### WellFormed refuses -/

theorem test_wf_refuses_assign_of_zero : (Instr.jumpAssign 0).wellFormed = false := by decide

theorem test_wf_refuses_jump_mode_as_operation :
    (Command.wellFormed { op := .jumpReturn, jump := some .jumpNext }) = false := by decide

theorem test_wf_refuses_operation_as_jump_mode :
    (Command.wellFormed { op := .skip, jump := some .skip }) = false := by decide

theorem test_wf_refuses_ill_formed_jump_mode :
    (Command.wellFormed { op := .skip, jump := some (.jumpAssign 0) }) = false := by decide

theorem test_wf_refuses_missing_jump_mode : (Command.wellFormed { op := .skip, jump := none }) = false := by decide

theorem test_wf_refuses_jump_mode_after_end :
    (Command.wellFormed { op := .endList, jump := some .jumpNext }) = false := by decide

theorem test_decode_refuses_truncated : decodeBytes (List.replicate 31 0) = .error .truncated := by decide

/-! ### Decoding, one word for each constructor (30_encoding.md rules R111 to R122) -/

theorem test_decode_endList : (decode { CmdTable.zero with ctrl := 0xFFFF }).op = .endList := by decide

theorem test_decode_skip : (decode { CmdTable.zero with ctrl := 0x400F }).op = .skip := by decide

theorem test_decode_nspr :
    (decode
      { CmdTable.zero with
        ctrl := 0x0030, pmod := 0x0040, colr := 0x0120, srca := 0x0008, size := 0x0203, xa := 0x1FFF, ya := 0x0002, grda := 0x0007 }).op =
      .nspr ⟨0x0040, 0x0120, 7⟩ ⟨true, true, 8, 2, 3⟩ ⟨0x1FFF, 2⟩ := by decide

theorem test_decode_sspr :
    (decode
      { CmdTable.zero with
        ctrl := 0x0A11, size := 0x0102, xa := 1, ya := 2, xb := 3, yb := 4, xc := 5, yc := 6 }).op =
      .sspr ⟨0, 0, 0⟩ ⟨true, false, 0, 1, 2⟩ 0xA ⟨1, 2⟩ ⟨3, 4⟩ ⟨5, 6⟩ := by decide

theorem test_decode_dspr :
    (decode
      { CmdTable.zero with
        ctrl := 0x0022, size := 0x0102, xa := 1, ya := 2, xb := 3, yb := 4, xc := 5, yc := 6, xd := 7, yd := 8 }).op =
      .dspr ⟨0, 0, 0⟩ ⟨false, true, 0, 1, 2⟩ ⟨1, 2⟩ ⟨3, 4⟩ ⟨5, 6⟩ ⟨7, 8⟩ := by decide

theorem test_decode_unrec3 : (decode { CmdTable.zero with ctrl := 0x0003 }).op = .unrec3 := by decide

theorem test_decode_poly :
    (decode
      { CmdTable.zero with
        ctrl := 0x0004, colr := 0x8001, xa := 1, ya := 2, xb := 3, yb := 4, xc := 5, yc := 6, xd := 7, yd := 8 }).op =
      .poly ⟨0, 0x8001, 0⟩ ⟨1, 2⟩ ⟨3, 4⟩ ⟨5, 6⟩ ⟨7, 8⟩ := by decide

theorem test_decode_plin :
    (decode
      { CmdTable.zero with
        ctrl := 0x0005, colr := 0x8001, xa := 1, ya := 2, xb := 3, yb := 4, xc := 5, yc := 6, xd := 7, yd := 8 }).op =
      .plin ⟨0, 0x8001, 0⟩ ⟨1, 2⟩ ⟨3, 4⟩ ⟨5, 6⟩ ⟨7, 8⟩ := by decide

theorem test_decode_line :
    (decode
      { CmdTable.zero with
        ctrl := 0x0FF6, colr := 0x8001, xa := 0xE001, ya := 2, xb := 3, yb := 4 }).op =
      .line ⟨0, 0x8001, 0⟩ ⟨1, 2⟩ ⟨3, 4⟩ := by decide

theorem test_decode_unrec7 : (decode { CmdTable.zero with ctrl := 0x0007 }).op = .unrec7 := by decide

theorem test_decode_uclip :
    (decode
      { CmdTable.zero with
        ctrl := 0x0008, xa := 0x0403, ya := 0x0204, xc := 0x03FF, yc := 0x01FF }).op =
      .uclip ⟨3, 4⟩ ⟨0x3FF, 0x1FF⟩ := by decide

theorem test_decode_sclip :
    (decode
      { CmdTable.zero with
        ctrl := 0x0009, xc := 319, yc := 223 }).op =
      .sclip ⟨319, 223⟩ := by decide

theorem test_decode_lcoord :
    (decode
      { CmdTable.zero with
        ctrl := 0x000A, xa := 0x00A0, ya := 0x1FF0 }).op =
      .lcoord ⟨0x00A0, 0x1FF0⟩ := by decide

theorem test_decode_unrecB : (decode { CmdTable.zero with ctrl := 0x000B }).op = .unrecB := by decide

theorem test_decode_unrecC : (decode { CmdTable.zero with ctrl := 0x000C }).op = .unrecC := by decide

theorem test_decode_unrecD : (decode { CmdTable.zero with ctrl := 0x000D }).op = .unrecD := by decide

theorem test_decode_unrecE : (decode { CmdTable.zero with ctrl := 0x000E }).op = .unrecE := by decide

theorem test_decode_unrecF : (decode { CmdTable.zero with ctrl := 0x000F }).op = .unrecF := by decide

theorem test_decode_jumpNext : (decode { CmdTable.zero with ctrl := 0x4000 }).jump = some .jumpNext := by decide

theorem test_decode_jumpAssign :
    (decode
      { CmdTable.zero with
        ctrl := 0x5000, link := 0x0010 }).jump =
      some (.jumpAssign 0x0010) := by decide

theorem test_decode_jumpAssignZero :
    (decode
      { CmdTable.zero with
        ctrl := 0x1006, link := 0x0000 }).jump =
      some .jumpAssignZero := by decide

theorem test_decode_jumpCall :
    (decode
      { CmdTable.zero with
        ctrl := 0x200A, link := 0x0020 }).jump =
      some (.jumpCall 0x0020) := by decide

theorem test_decode_jumpReturn : (decode { CmdTable.zero with ctrl := 0x3006 }).jump = some .jumpReturn := by decide

theorem test_decode_table_word :
    decodeTableWord 16 0x3000 = some .jumpReturn ∧ decodeTableWord 16 0x0000 = some (.nspr ⟨0, 0, 0⟩ ⟨false, false, 0, 0, 0⟩ ⟨0, 0⟩) ∧
      decodeTableWord 16 0x4000 = some .skip := by decide +kernel

/-! ### Helpers for one step -/

/-- The framebuffers and tables empty, a texture of nibbles 1, 2, 3, 4 at 0x40, the processor running at the start of a
frame: the state of section 2.8 of 95_test_vectors.md. -/
def base : State :=
  { State.reset with
    mem := State.reset.mem.write16 .vram1 0x40 0x1234
    ctx := RenderContext.frameStart }

/-- The command of some words, the rest 0, placed at an address. -/
def placed (s : State) (a : Nat) (ws : List Word) : State :=
  { s with mem := s.mem.writeBytes .vram1 a ((ws ++ List.replicate (16 - ws.length) 0).flatMap bytesOfWord) }

/-- One command step with the words at address `a`. -/
def stepAt (s : State) (a : BitVec 19) (ws : List Word) : Host.Outcome State Fault Refusal :=
  step { placed s a.toNat ws with ctx := { s.ctx with cmdAddr := a }, sched := [.commands 1] }

/-- One command step with the words at address 0 of the base state. -/
def stepOf (ws : List Word) : Host.Outcome State Fault Refusal := stepAt base 0 ws

/-- An outcome is a next state with a property. -/
def nextIs (o : Host.Outcome State Fault Refusal) (p : State → Bool) : Bool :=
  match o with
  | .next t => p t
  | _ => false

theorem exists_of_nextIs {o : Host.Outcome State Fault Refusal} {p : State → Bool} (h : nextIs o p = true) :
    ∃ t, o = .next t ∧ p t = true := by
  cases o with
  | next t => exact ⟨t, rfl, h⟩
  | fault r => cases h
  | refused r => cases h

/-- The draw buffer's pixels at some positions. -/
def pixelsAt (t : State) (ps : List (Nat × Nat)) : List Word := ps.map fun p => t.mem.pixel .fb0 p.1 p.2

/-! ### One step of each instruction (sections 2.7, 2.8 and 3 of 95_test_vectors.md) -/

/-- Vector C1. -/
theorem test_nspr :
    (nextIs (stepOf [0x0000, 0, 0, 0x0120, 0x0008, 0x0202]) fun t =>
      pixelsAt t [(0, 0), (1, 0), (0, 1), (1, 1)] == [0x0121, 0x0122, 0x0123, 0x0124] && t.mem.fb0.length == 8) = true := by decide +kernel

/-- Vector C4. -/
theorem test_nspr_mirrored :
    (nextIs (stepOf [0x0030, 0, 0, 0x0120, 0x0008, 0x0202]) fun t =>
      pixelsAt t [(0, 0), (1, 0), (0, 1), (1, 1)] == [0x0124, 0x0123, 0x0122, 0x0121]) = true := by decide +kernel

/-- Vector C14. -/
theorem test_sspr_zoom_centre :
    (nextIs (stepOf [0x0A01, 0, 0, 0, 0x0008, 0x0202, 10, 10, 3, 1]) fun t =>
      pixelsAt t [(9, 10), (10, 10), (11, 10), (12, 10), (9, 11), (10, 11), (11, 11), (12, 11)] == [1, 1, 2, 2, 3, 3, 4, 4]) = true := by decide +kernel

/-- Vector C13. -/
theorem test_sspr_two_corners :
    (nextIs (stepOf [0x0001, 0, 0, 0, 0x0008, 0x0202, 10, 10, 0, 0, 13, 11]) fun t =>
      pixelsAt t [(10, 10), (11, 10), (12, 10), (13, 10), (10, 11), (13, 11)] == [1, 1, 2, 2, 3, 4]) = true := by decide +kernel

/-- Vector C17, with companion pixels and a pixel written twice. -/
theorem test_dspr :
    (nextIs (stepOf [0x0002, 0, 0, 0, 0x0008, 0x0202, 0, 0, 3, 1, 3, 3, 0, 2]) fun t =>
      pixelsAt t [(2, 0), (3, 0), (0, 2), (2, 2), (3, 2), (1, 3), (2, 3)] == [2, 0, 3, 4, 2, 0, 4]) = true := by decide +kernel

/-- Vector C12, the two records of an unadmitted mode and colour mode 6. -/
theorem test_dspr_mesh :
    (nextIs (stepOf [0x0002, 0, 0x0130]) fun t =>
      t.diag == [.unhandledCommand 0 2 0x0130, .unhandledCommand 0 2 0x0130] && t.ctx.drawCalls == 1) = true := by decide +kernel

/-- Vector C18. -/
theorem test_poly :
    (nextIs (stepOf [0x0004, 0, 0, 0x8001, 0, 0, 0, 0, 3, 0, 5, 4, 0, 2]) fun t =>
      t.mem.fb0.length == 40 && pixelsAt t [(4, 1), (1, 3), (2, 3), (5, 3)] == [0x8001, 0, 0x8001, 0x8001]) = true := by decide +kernel

/-- Vector C19. -/
theorem test_plin :
    (nextIs (stepOf [0x0005, 0, 0, 0x8005, 0, 0, 0, 0, 2, 0, 2, 2, 0, 2]) fun t =>
      t.mem.fb0.length == 16 && pixelsAt t [(0, 0), (1, 1), (0, 1), (2, 2)] == [0x8005, 0, 0x8005, 0x8005]) = true := by decide +kernel

/-- Vector C20. -/
theorem test_line :
    (nextIs (stepOf [0x0006, 0, 0, 0x8003, 0, 0, 0, 0, 5, 2]) fun t =>
      t.mem.fb0.length == 16 && pixelsAt t [(2, 0), (2, 1), (3, 0), (4, 2)] == [0x8003, 0x8003, 0, 0x8003]) = true := by decide +kernel

/-- Vector C21. -/
theorem test_line_rejected :
    (nextIs (stepOf [0x0006, 0, 0, 1, 0, 0, 0x1FFB, 0, 0x1FFF, 5]) fun t =>
      t.mem.fb0 == [] && t.ctx.drawCalls == 1) = true := by decide +kernel

/-- Vector C24. -/
theorem test_uclip :
    (nextIs (stepOf [0x0008, 0, 0, 0, 0, 0, 8, 9, 0, 0, 15, 14]) fun t =>
      (t.ctx.userClipX0, t.ctx.userClipY0, t.ctx.userClipX1, t.ctx.userClipY1) == (8, 9, 15, 14)) = true := by decide +kernel

/-- Vector C25. -/
theorem test_sclip :
    (nextIs (stepOf [0x0009, 0, 0, 0, 0, 0, 0, 0, 0, 0, 319, 223]) fun t =>
      (t.ctx.sysClipH, t.ctx.sysClipV) == (319, 223)) = true := by decide +kernel

/-- Vectors C26 and C27. -/
theorem test_lcoord :
    (nextIs (stepOf [0x000A, 0, 0, 0, 0, 0, 0xF000, 0x1FF0]) fun t =>
      (t.ctx.localX.toInt, t.ctx.localY.toInt) == (-4096, -16)) = true := by decide +kernel

/-- Vector J13. -/
theorem test_unrec3 :
    (nextIs (stepAt base 0x40 [0x0003]) fun t =>
      t.diag == [.unhandledCommand 0x40 0x0003 0] && t.ctx.cmdAddr == 0x60 && t.ctx.drawCalls == 0) = true := by decide +kernel

/-- Vector J13 with opcode 0x7. -/
theorem test_unrec7 :
    (nextIs (stepAt base 0x40 [0x0007]) fun t =>
      t.diag == [.unhandledCommand 0x40 0x0007 0] && t.ctx.cmdAddr == 0x60 && t.ctx.drawCalls == 0) = true := by decide +kernel

/-- Vector J13 with opcode 0xB. -/
theorem test_unrecB :
    (nextIs (stepAt base 0x40 [0x000B]) fun t =>
      t.diag == [.unhandledCommand 0x40 0x000B 0] && t.ctx.cmdAddr == 0x60 && t.ctx.drawCalls == 0) = true := by decide +kernel

/-- Vector J13 with opcode 0xC. -/
theorem test_unrecC :
    (nextIs (stepAt base 0x40 [0x000C]) fun t =>
      t.diag == [.unhandledCommand 0x40 0x000C 0] && t.ctx.cmdAddr == 0x60 && t.ctx.drawCalls == 0) = true := by decide +kernel

/-- Vector J13 with opcode 0xD. -/
theorem test_unrecD :
    (nextIs (stepAt base 0x40 [0x000D]) fun t =>
      t.diag == [.unhandledCommand 0x40 0x000D 0] && t.ctx.cmdAddr == 0x60 && t.ctx.drawCalls == 0) = true := by decide +kernel

/-- Vector J13 with opcode 0xE. -/
theorem test_unrecE :
    (nextIs (stepAt base 0x40 [0x000E]) fun t =>
      t.diag == [.unhandledCommand 0x40 0x000E 0] && t.ctx.cmdAddr == 0x60 && t.ctx.drawCalls == 0) = true := by decide +kernel

/-- Vector J13 with opcode 0xF. -/
theorem test_unrecF :
    (nextIs (stepAt base 0x40 [0x000F]) fun t =>
      t.diag == [.unhandledCommand 0x40 0x000F 0] && t.ctx.cmdAddr == 0x60 && t.ctx.drawCalls == 0) = true := by decide +kernel

/-- Vector J2. -/
theorem test_endList :
    (nextIs (stepOf [0xFFFF]) fun t =>
      !t.ctx.rendering && t.reg1.cef == 1 && t.out == [.trigger .spriteDrawEnd, .drawCallCounters 0]) = true := by decide +kernel

/-- Vector J4. -/
theorem test_skip :
    (nextIs (stepAt base 0x40 [0x400F]) fun t => t.ctx.cmdAddr == 0x60 && t.diag == []) = true := by decide +kernel

/-- Vector J5. -/
theorem test_jumpNext_wraps :
    (nextIs (stepAt base 0x7FFE0 [0x4000]) fun t => t.ctx.cmdAddr == 0) = true := by decide +kernel

/-- Vector J6. -/
theorem test_jumpAssign :
    (nextIs (stepOf [0x5000, 0x0010]) fun t => t.ctx.cmdAddr == 0x80 && !t.ctx.retValid) = true := by decide +kernel

/-- Vector J7. -/
theorem test_jumpAssignZero :
    (nextIs (stepAt base 0x20 [0x5000, 0x0000]) fun t =>
      t.diag == [.malformedJump 0x20] && !t.ctx.rendering && t.ctx.cmdAddr == 0x20) = true := by decide +kernel

/-- Vector J8. -/
theorem test_jumpCall :
    (nextIs (stepAt base 0x40 [0x6000, 0x0100]) fun t =>
      t.ctx.retAddr == 0x60 && t.ctx.retValid && t.ctx.cmdAddr == 0x800) = true := by decide +kernel

/-- Vector J9. -/
theorem test_jumpCall_nested :
    (nextIs (stepAt { base with ctx := { base.ctx with retValid := true, retAddr := 0x60 } } 0x800 [0x6000, 0x0200]) fun t =>
      t.ctx.retAddr == 0x60 && t.ctx.cmdAddr == 0x1000) = true := by decide +kernel

/-- Vector J10. -/
theorem test_jumpReturn :
    (nextIs (stepAt { base with ctx := { base.ctx with retValid := true, retAddr := 0x60 } } 0x1000 [0x7000]) fun t =>
      t.ctx.cmdAddr == 0x60 && !t.ctx.retValid) = true := by decide +kernel

/-- Vector J11. -/
theorem test_jumpReturn_unsaved :
    (nextIs (stepAt base 0x60 [0x7000]) fun t => t.ctx.cmdAddr == 0x80 && t.diag == []) = true := by decide +kernel

/-! ### Steppers (sections 2.1 to 2.4 of 95_test_vectors.md) -/

/-- Vectors A1 to A5. -/
theorem test_safeDiv :
    safeDiv (toFix 2) 5 = 26214 ∧ safeDiv (toFix (-3)) 7 = -28086 ∧ safeDiv 0 0 = 0 ∧ safeDiv (toFix 5) 0 = 0 := by decide

/-- Vector V6. -/
theorem test_line_points :
    linePoints ⟨0, 0⟩ ⟨7, -3⟩ = [⟨0, 0⟩, ⟨1, 0⟩, ⟨2, -1⟩, ⟨3, -1⟩, ⟨4, -2⟩, ⟨5, -2⟩, ⟨6, -3⟩, ⟨7, -3⟩] := by
  decide +kernel

/-- Vector V5, the companions. -/
theorem test_line_companions :
    ((lineVisits ⟨2, 1⟩ ⟨-3, 4⟩).filter LineStepper.aa).map LineStepper.aaCoord = [⟨1, 1⟩, ⟨-1, 2⟩, ⟨-3, 3⟩] := by
  decide +kernel

/-- Vector T8. -/
theorem test_texture_indices :
    ((texLineVisits ⟨0, 0⟩ ⟨6, 2⟩ 3 false).map TexLineStepper.u) = [0, 0, 0, 1, 1, 2, 2] := by decide +kernel

/-- Vector Q6. -/
theorem test_quad_rows :
    quadRows ⟨0, 0⟩ ⟨3, 0⟩ ⟨3, -3⟩ ⟨0, -2⟩ =
      [(⟨0, 0⟩, ⟨3, 0⟩), (⟨0, -1⟩, ⟨3, -1⟩), (⟨0, -1⟩, ⟨3, -2⟩), (⟨0, -2⟩, ⟨3, -3⟩)] := by decide +kernel

/-! ### The bus (section 2.5 of 95_test_vectors.md) -/

/-- Vector M6. -/
theorem test_reset_pattern :
    ((memRead16 State.reset .vram1 0).2, (memRead16 State.reset .vram1 2).2, (memRead16 State.reset .vram1 0x20).2) =
      (0x8000, 0x5555, 0x8000) := by decide +kernel

/-- Vector M19: the two halves of a long write in order. -/
theorem test_long_register_write :
    (let t := memWrite32 State.reset .reg1 0x04 0x00011234
     (t.reg1.plotTrigger, t.ctx.rendering, t.reg1.eraseFill)) = (1, true, 0x1234) := by decide +kernel

/-- Vector M20: a resolution request. -/
theorem test_resolution_request :
    (let t := memWrite16 State.reset .reg2 0x002 0x0002
     (t.cfg2.hres, t.timing.resPending, t.timing.actHRES)) = (2, true, 0) := by decide +kernel

/-- Vector M23. -/
theorem test_unrecognized_offset :
    (let r := memRead16 State.reset .reg2 0x0B6
     (r.2, r.1.diag)) = (0, [.unhandledRegister .reg2 0x0B6 false]) := by decide +kernel

/-! ### Framebuffers and timing (sections 2.6 and 2.9 of 95_test_vectors.md) -/

/-- Vector F5: the erase in double interlace, 24 pixels. -/
theorem test_erase_double_interlace :
    (nextIs
      (eraseActive
        { State.reset with
          reg1 := { Reg1.reset with eraseX3 := 1, eraseY3 := 1, eraseFill := 0xABCD }
          timing := { Timing.reset with actLSMD := 3 } })
      fun t => t.mem.fb1.length == 48 && t.mem.pixel .fb1 7 2 == 0xABCD && t.mem.pixel .fb1 8 0 == 0) = true := by
  decide +kernel

/-- Vector D1, the first event. -/
theorem test_first_event :
    (nextIs (phaseEvent State.reset) fun t =>
      t.result == .cycles 104 && t.timing.hphase == .rightBorder && t.out == [.trigger .hblankStart]) = true := by
  decide +kernel

/-- Vector D2, event 1343. -/
theorem test_bottom_border_event :
    (nextIs (phaseEvent { State.reset with timing := { Timing.reset with hphase := .leftBorder, vcnt := 223, periphDone := true } })
      fun t => t.timing.vcnt == 224 && t.timing.vphase == .bottomBorder && t.out.length == 2) = true := by
  decide +kernel

/-! ### Backgrounds and compositor (sections 2.10 and 2.11 of 95_test_vectors.md) -/

/-- A configuration from its registers. -/
def cfg (l : List (Nat × Word)) : Cfg2 :=
  l.foldl (fun c e => match fieldWidth e.1 with | some w => c.store e.1 w e.2 | none => c) []

/-- Vector B1. -/
theorem test_pattern_name_address :
    patternNameAddr (cfg [(Slot.fieldIndex .nbg0 34, 0x10)]) .nbg0 9 8 2 = 0x10104 := by decide +kernel

/-- Vector B7. -/
theorem test_special_function_code :
    (sfMatch (cfg [(47, 4)]) .nbg0 0x25, sfMatch (cfg [(47, 4)]) .nbg0 0x27) = (true, false) := by decide +kernel

/-- Vector B12: two windows, AND and OR. -/
theorem test_windows :
    (let c := cfg [(13, 10), (15, 20), (16, 223), (20, 15), (22, 30), (23, 223)]
     let line ws := (List.range 40).filter (windowAt c State.reset.mem [] 5 ws)
     (line 0x45, (line 0x05).length, line 0)) = ([15, 16, 17, 18, 19, 20], 21, []) := by decide +kernel

/-- Vectors K8 to K11. -/
theorem test_blends :
    ratioBlend ⟨248, 0, 0⟩ ⟨0, 0, 248⟩ 15 = ⟨124, 0, 124⟩ ∧ ratioBlend ⟨248, 0, 0⟩ ⟨0, 0, 248⟩ 0 = ⟨240, 0, 7⟩ ∧
      addBlend ⟨200, 100, 0⟩ ⟨100, 100, 0⟩ = ⟨255, 200, 0⟩ := by decide

/-- Vectors K14 and K15. -/
theorem test_offset_and_output :
    offsetChannel 200 100 = 255 ∧ offsetChannel 10 (-20) = 0 ∧ outputPixel ⟨255, 0, 5⟩ = 0xFF0500FF := by decide

/-! ### Reset and the host's placement -/

/-- A hard reset of the state after construction leaves the same registers and lists. -/
theorem test_hardReset :
    (nextIs (hardReset State.reset) fun t =>
      t.mem == State.reset.mem && t.ctx == State.reset.ctx && t.timing == State.reset.timing &&
        t.outFrame.rows == State.reset.outFrame.rows) = true := by decide +kernel

/-- The word of a jump mode's row, placed after reset, runs. -/
theorem test_withFetchWord :
    (nextIs (step (State.reset.withFetchWord 16 0x1000)) fun t => t.diag == [.malformedJump 0]) = true := by
  decide +kernel

/-! ### Witnesses: for each obligation with hypotheses, a state and operands that meet them

Where an obligation has several clauses, one witness for each, at a boundary of its range. -/

/-- The base state with inputs listed. -/
def listed (inputs : List Input) : State := { base with sched := inputs }

/-- The state after reset in given phases and on a given line. -/
def inPhase (h : HPhase) (v : VPhase) (line : Nat) : State :=
  { State.reset with timing := { Timing.reset with hphase := h, vphase := v, vcnt := line } }

/-- The state after reset with a background configuration. -/
def configured (l : List (Nat × Word)) : State := { State.reset with cfg2 := cfg l }

theorem witness_DecodeOfEncodedBytesIsTheCommand :
    Command.wellFormed { op := .line ⟨0, 0x8001, 0⟩ ⟨0x1FFF, 0⟩ ⟨3, 0⟩, jump := some (.jumpAssign 0xFFFF) } = true ∧
      Command.wellFormed { op := .endList, jump := none } = true := by decide

theorem witness_EveryTableIsACommandOfItsRows :
    (decode { CmdTable.zero with ctrl := 0x1000 }).jump = some .jumpAssignZero := by decide

/-- The one pair of rows with one pattern, and two rows of the same word of different kinds. -/
theorem witness_RowsNeverOverlap :
    (Instr.jumpAssign 1).isJump = Instr.jumpAssignZero.isJump ∧
      0x1000#16 &&& rowMask (.jumpAssign 1) = rowMatch (.jumpAssign 1) ∧
      0x1000#16 &&& rowMask .jumpAssignZero = rowMatch .jumpAssignZero ∧
      (Instr.jumpAssign 1).row = 19 ∧ Instr.jumpAssignZero.row = 20 ∧
      0xF00F#16 &&& rowMask .unrecF ≠ rowMatch .unrecF ∧ 0x300F#16 &&& rowMask .unrecF = rowMatch .unrecF := by decide

/-- A command that draws, with every ignored bit of its PMOD word flipped, and a command without a PMOD word. -/
theorem witness_IgnoredBitsChangeNothing :
    (∃ u, exec (.line ⟨0x0000, 0x8001, 0⟩ ⟨0, 0⟩ ⟨3, 0⟩) base = .next u ∧ (u.diag == []) = true) ∧
      pmodOf (.line ⟨0x0000, 0x8001, 0⟩ ⟨0, 0⟩ ⟨3, 0⟩) ^^^ (0xFFFF &&& 0xF983) = 0xF983 ∧
      (∃ v, exec (withPmod 0xF983 (.line ⟨0x0000, 0x8001, 0⟩ ⟨0, 0⟩ ⟨3, 0⟩)) base = .next v ∧
        (v.diag.length == 1 && pixelsAt v [(0, 0), (3, 0), (4, 0)] == [0x8001, 0x8001, 0]) = true) ∧
      ∃ u, exec .skip base = .next u ∧ (u.diag == []) = true :=
  ⟨exists_of_nextIs (by decide +kernel), by decide, exists_of_nextIs (by decide +kernel),
    exists_of_nextIs (by decide +kernel)⟩

theorem witness_StepServesTheNextInput :
    (listed [.softReset]).sched = .softReset :: [] ∧ State.reset.sched = [] := ⟨rfl, rfl⟩

/-- A narrow bus write takes the low bits of its value (20_memory.md rule R91). -/
theorem test_narrow_bus_write :
    (nextIs (step (listed [.busWrite .vram1 2 .byte 0x11223344])) fun t =>
      (memRead16 t .vram1 2).2 == 0x4455) = true := by decide +kernel

theorem witness_GrantRunsTheCommandAtCmdAddr :
    ({ State.reset with sched := [.commands 1] } : State).sched = .commands (0 + 1) :: [] ∧
      ({ State.reset with sched := [.commands 1] } : State).ctx.rendering = false ∧
      (listed [.commands 2]).sched = .commands (1 + 1) :: [] ∧ (listed [.commands 2]).ctx.rendering = true ∧
      decodeBytes (listed [.commands 2]).commandBytes = .ok ((listed [.commands 2]).fetchCommand, []) :=
  ⟨rfl, rfl, rfl, rfl, rfl⟩

theorem witness_EndBitEndsTheFrame :
    ({ CmdTable.zero with ctrl := 0xFFFF } : CmdTable).ctrl.getLsbD 15 = true ∧ base.spriteAdmitted = true := by
  decide +kernel

theorem witness_SkipBitExecutesNothing :
    (0x7FFF : Word).getLsbD 15 = false ∧ (0x7FFF : Word).getLsbD 14 = true ∧ base.spriteAdmitted = true := by
  decide +kernel

theorem witness_UnrecognizedOpcodesOnlyLog :
    Instr.unrecF ∈ [Instr.unrec3, .unrec7, .unrecB, .unrecC, .unrecD, .unrecE, .unrecF] ∧ base.spriteAdmitted = true := by
  decide +kernel

theorem witness_ContextCommandsSetTheirFields :
    0x3FF8#16 &&& 0xC00F = 0x0008 ∧ 0x3FF9#16 &&& 0xC00F = 0x0009 ∧ 0x3FFA#16 &&& 0xC00F = 0x000A ∧
      base.spriteAdmitted = true := by decide +kernel

/-- Every jump mode of the statement, and a saved address present and absent. -/
theorem witness_NextCallAndReturnMoveTheAddress :
    (0x4FFF : Word).getLsbD 15 = false ∧ (0x4FFF : Word).extractLsb' 12 2 = 0 ∧ (0x6FFF : Word).getLsbD 15 = false ∧
      (0x6FFF : Word).extractLsb' 12 2 = 2 ∧ (0x7FFF : Word).getLsbD 15 = false ∧
      (0x7FFF : Word).extractLsb' 12 2 = 3 ∧ base.ctx.retValid = false ∧
      ({ base with ctx := { base.ctx with retValid := true } } : State).ctx.retValid = true := by decide

theorem witness_AssignJumpsOrEndsTheFrame :
    (0x1006 : Word).getLsbD 15 = false ∧ (0x1006 : Word).extractLsb' 12 2 = 1 ∧ CmdTable.zero.link = 0 ∧
      (0xFFFF : Word) ≠ 0 ∧ ((0xFFFF : Word).toNat * 8) % 0x80000 ≠ 0 ∧ ((0x0001 : Word).toNat * 8) % 0x80000 ≠ 0 ∧
      ((0x0000 : Word).toNat * 8) % 0x80000 = 0 := by decide

/-- Colour modes 5 and 6 are the two sides of the condition; each field value of a zoom point, the two-corner form
among them. -/
theorem witness_TexturedCommandsDrawTheirQuad :
    base.spriteAdmitted = true ∧ ¬6 ≤ pmodCM 0x0028 ∧ 6 ≤ pmodCM 0x0030 ∧
      ((0x0 : BitVec 4).toNat = 0) ∧ ((0xF : BitVec 4).toNat % 4 = 3) ∧ ((0xF : BitVec 4).toNat / 4 = 3) ∧
      ((0xA : BitVec 4).toNat % 4 = 2) ∧ ((0xA : BitVec 4).toNat / 4 = 2) ∧ ((0x1 : BitVec 4).toNat / 4 = 0) := by
  decide +kernel

/-- The corners of 42_command_processor.md rule R242 for an odd displayed width and height of 3 and 5 at (10, 20): the two-corner form, a zero field
beside a non-zero one, the centre, and the right edge with the bottom one. -/
theorem test_zoom_points :
    [0x0#4, 0x4#4, 0xA#4, 0xF#4].map (fun zp =>
      let q := scaledCorners zp ⟨10, 20⟩ ⟨3, 5⟩ ⟨12, 25⟩ base
      (q.a.x, q.a.y, q.c.x, q.c.y)) =
    [(10, 20, 12, 25), (10, 20, 13, 25), (9, 18, 12, 23), (7, 15, 10, 20)] := by decide +kernel

/-- For each command one that is drawn and one that is rejected. -/
theorem witness_UntexturedCommandsDrawTheirLines :
    base.spriteAdmitted = true ∧ base.ctx.rejects 0 [base.position ⟨0, 0⟩, base.position ⟨3, 0⟩] = false ∧
      base.ctx.rejects 0 [base.position ⟨0x1FFB, 0⟩, base.position ⟨0x1FFF, 5⟩] = true ∧
      base.ctx.rejects 0
          [base.position ⟨511, 255⟩, base.position ⟨512, 255⟩, base.position ⟨512, 256⟩, base.position ⟨511, 256⟩] =
        false ∧
      base.ctx.rejects 0
          [base.position ⟨512, 255⟩, base.position ⟨513, 255⟩, base.position ⟨513, 256⟩, base.position ⟨512, 256⟩] =
        true := by decide +kernel

/-- The line of 40_rasterizer.md rules R167 and R171: its points, each companion before its point. -/
theorem test_line_plots :
    (linePlots State.reset.mem ⟨0, 0x8003, 0⟩ 0 0 ⟨0, 0⟩ ⟨5, 2⟩).map (fun p => (p.x, p.y, p.v)) =
      [(0, 0, 0x8003), (1, 0, 0x8003), (2, 0, 0x8003), (2, 1, 0x8003), (3, 1, 0x8003), (4, 1, 0x8003), (4, 2, 0x8003),
        (5, 2, 0x8003)] := by decide +kernel

theorem witness_UntexturedPixelsTakeTheColour :
    pmodGour 0 = false ∧ onScreen 511 255 ∧
      ∃ t, exec (.line ⟨0, 0x8001, 0⟩ ⟨511, 255⟩ ⟨511, 255⟩) base = .next t ∧
        (t.mem.pixel base.drawBuffer 511 255 == 0x8001) = true :=
  ⟨by decide, by unfold onScreen; decide, exists_of_nextIs (by decide +kernel)⟩

theorem witness_DrawsOnlyInsideTheClip :
    drawsPixels (.line ⟨0x0600, 1, 0⟩ ⟨511, 255⟩ ⟨511, 255⟩) = true ∧ base.ctx.sysClipH.toNat ≤ 511 ∧
      base.ctx.sysClipV.toNat ≤ 255 ∧ onScreen 511 255 ∧ base.mem.pixel base.drawBuffer 511 255 = 0 ∧
      ∃ t, exec (.line ⟨0x0400, 1, 0⟩ ⟨511, 255⟩ ⟨511, 255⟩) base = .next t ∧
        (t.mem.pixel base.drawBuffer 511 255 == 1) = true :=
  ⟨by decide, by decide +kernel, by decide +kernel, by unfold onScreen; decide, by decide +kernel,
    exists_of_nextIs (by decide +kernel)⟩

/-- The last pixel of a sprite in the corner of the framebuffer, the pixel beside it, and a pixel of it that fails the
user clip; a PMOD word of each colour mode, the last one with SPD set. -/
theorem witness_NormalSpriteCopiesTheTexture :
    base.spriteAdmitted = true ∧ pmodGour 0x0028 = false ∧ pmodCM 0x0028 < 6 ∧ base.ctx.sysClipH.toNat ≤ 511 ∧
      base.ctx.sysClipV.toNat ≤ 255 ∧ (1 : Nat) < (2 : BitVec 8).toNat ∧
      base.ctx.visible 0x0028 ((base.position ⟨510, 254⟩).x + 1) ((base.position ⟨510, 254⟩).y + 1) = true ∧
      (509 < 512 ∧ 254 < 256) ∧ ¬(base.position ⟨510, 254⟩).x ≤ (509 : Nat) ∧
      base.ctx.visible 0x0628 (510 : Nat) (254 : Nat) = false ∧
      [0x0000#16, 0x0008, 0x0010, 0x0018, 0x0020, 0x0068].map (fun w => w.toNat / 8 % 8) = [0, 1, 2, 3, 4, 5] ∧
      (0x0068 : Word).getLsbD 6 = true := by
  decide +kernel

/-- The six rows of 30_encoding.md rule R124 for texel 1 of a texture at 0x40 whose bytes are 1F C2 and the colour word
0x1234: its raw value and its pixel value, the lookup table at 0x91A0 holding 0x5678 in entry 15. -/
theorem test_texel_modes :
    (let m := (State.reset.mem.write16 .vram1 0x40 0x1FC2).write16 .vram1 (0x91A0 + 30) 0x5678
     (List.range 6).map fun mode =>
      let t := fetchTexel m { base := 0x40, width := 8, height := 1, mode := mode, bank := 0x1234 } 1 0
      (t.raw, t.value)) =
    [(0xF, 0x123F), (0xF, 0x5678), (0xC2, 0x1202), (0xC2, 0x1242), (0xC2, 0x12C2), (0x5555, 0x5555)] := by
  decide +kernel

/-- Corners at the ends of the range, rejected by the system clip and by the user clip. -/
theorem witness_RejectionLosesNoPixel :
    (let q : Corners := { a := ⟨-16384, 0⟩, b := ⟨-1, 16383⟩, c := ⟨-1, -16384⟩, d := ⟨-16384, 16383⟩ }
     (∀ p ∈ q.list, -16384 ≤ p.x ∧ p.x ≤ 16383 ∧ -16384 ≤ p.y ∧ p.y ≤ 16383) ∧
      base.ctx.rejects 0 [q.a, q.b] = true ∧ base.ctx.rejects 0 q.list = true) ∧
      ({ base.ctx with userClipX0 := 9 } : RenderContext).rejects 0x0400 [⟨0, 0⟩, ⟨8, 8⟩] = true := by decide +kernel

/-- The greatest span, the first two points of a line, and the first and the last point of one. -/
theorem witness_LineIsAnEightConnectedPath :
    max ((32768 : Int) - 0).natAbs ((-32768 : Int) - 0).natAbs ≤ 32768 ∧
      (linePoints ⟨0, 0⟩ ⟨1, 1⟩)[0]? = some ⟨0, 0⟩ ∧ (linePoints ⟨0, 0⟩ ⟨1, 1⟩)[0 + 1]? = some ⟨1, 1⟩ ∧
      0 ≤ max ((5 : Int) - 0).natAbs ((2 : Int) - 0).natAbs ∧ 5 ≤ max ((5 : Int) - 0).natAbs ((2 : Int) - 0).natAbs := by
  decide +kernel

theorem witness_TexelIndexStaysInRange :
    (texLineVisits ⟨0, 0⟩ ⟨0, 0⟩ 255 true).length = 1 ∧ (texQuadVisits ⟨0, 0⟩ ⟨0, 0⟩ ⟨0, 0⟩ ⟨0, 0⟩ 255 true).length = 1 := by
  decide +kernel

/-- The greatest span, the first row and the last one. -/
theorem witness_QuadStepsItsLongerEdge :
    max (spanOf ⟨0, 0⟩ ⟨0, 32768⟩) (spanOf ⟨3, 0⟩ ⟨5, 4⟩) ≤ 32768 ∧ 0 ≤ max (spanOf ⟨0, 0⟩ ⟨0, 2⟩) (spanOf ⟨3, 0⟩ ⟨5, 4⟩) ∧
      4 ≤ max (spanOf ⟨0, 0⟩ ⟨0, 2⟩) (spanOf ⟨3, 0⟩ ⟨5, 4⟩) := by decide

/-- The corners of the rectangle of vector F3 and the pixels next to them. -/
theorem witness_EraseFillsExactlyItsRectangle :
    (let s : State := { base with reg1 := { Reg1.reset with eraseX3 := 1, eraseY3 := 1 } }
     s.spriteAdmitted = true ∧ s.eraseRect = { xs := 0, xe := 8, ys := 0, ye := 1 } ∧ onScreen 7 1 ∧ onScreen 8 0 ∧
      onScreen 0 2 ∧ s.displayBuffer = .fb1 ∧ eraseActive s = .next s.eraseDisplay ∧ ∃ u, swap s.eraseDisplay = .next u) := by
  refine ⟨?_, ?_, ?_, ?_, ?_, ?_, eraseActive_admitted (by decide +kernel), _, swap_admitted (by decide +kernel)⟩ <;>
    first | (unfold onScreen; decide) | decide +kernel

theorem witness_SwapTogglesTheRoles :
    (let s : State := { base with fbc := { FbControl.reset with manualErase := true }, reg1 := { Reg1.reset with plotTrigger := 2 } }
     s.spriteAdmitted = true ∧ s.fbc.manualErase = true ∧ eraseActive s = .next s.eraseDisplay ∧ s.reg1.plotTrigger = 2) ∧
      base.spriteAdmitted = true ∧ base.fbc.manualErase = false ∧ base.reg1.plotTrigger ≠ 2 :=
  ⟨⟨by decide +kernel, rfl, eraseActive_admitted (by decide +kernel), rfl⟩, by decide +kernel, rfl, by decide +kernel⟩

theorem witness_PlotTriggerBeginsAFrame :
    (0xFFFD : Word).extractLsb' 0 2 = 1#2 ∧ (0x0002 : Word).extractLsb' 0 2 ≠ 1#2 ∧ (0x0000 : Word).extractLsb' 0 2 ≠ 1#2 := by
  decide

/-- The last word of the framebuffer window, whose long runs over the end of the memory, the first bytes, and a byte of
another word; an odd offset for a byte. -/
theorem witness_MemoriesAreBigEndian :
    base.memOf .fb = some .fb0 ∧ 0x3FFFE % 2 = 0 ∧ 4 % MemId.fb0.size ≠ 0x3FFFE % MemId.fb0.size ∧
      4 % MemId.fb0.size ≠ (0x3FFFE + 1) % MemId.fb0.size ∧ base.memOf .cram = some .cram ∧ MemId.cram ≠ .fb0 ∧
      (∀ k, k < 4 → 2 % MemId.fb0.size ≠ (0x3FFFE + k) % MemId.fb0.size) ∧
      (0x3FFFE + 3) % MemId.fb0.size = 1 ∧ 0xFFE % MemId.cram.size ≠ 0xFFF % MemId.cram.size := by
  decide +kernel

/-- A byte and a long, the long over the end of the memory (20_memory.md rules R83, R84, R93). -/
theorem test_byte_and_long_writes :
    (let t := memWrite32 (memWrite8 State.reset .cram 0xFFD 0xAB) .cram 0xFFE 0x11223344
     [0xFFC, 0xFFD, 0xFFE, 0xFFF, 0, 1, 2].map fun a => (memRead8 t .cram a).2) = [0, 0xAB, 0x11, 0x22, 0x33, 0x44, 0] := by
  decide +kernel

/-- Each width of a read hands its value back zero-extended, and a read of a missing register logs. -/
theorem witness_ReadsChangeNothingButTheLog :
    (busRead State.reset .vram1 0 .byte).result = .data 0x80 ∧ (busRead State.reset .vram1 0 .word).result = .data 0x8000 ∧
      (busRead State.reset .vram1 0 .long).result = .data 0x80005555 ∧
      (busRead State.reset .reg1 0x0C .word).diag = [.unhandledRegister .reg1 0x0C false] ∧
      ((Region.reg1 = .reg1 ∧ 12 = 12) ∨ (Region.reg1 = .reg2 ∧ 12 = 512)) ∧
      ((Region.reg2 = .reg1 ∧ 512 = 12) ∨ (Region.reg2 = .reg2 ∧ 512 = 512)) := by decide +kernel

/-- Odd offsets at both ends; each range of unrecognized offsets at its ends, and the recognized offsets next to
them. -/
theorem witness_AccessErrorsOnlyLog :
    ((Region.reg2 = .reg1 ∨ Region.reg2 = .reg2) ∧ 0x7FFFF % 2 = 1 ∧ 1 % 2 = 1) ∧
      0x0C ∉ [0x00, 0x02, 0x04, 0x06, 0x08, 0x0A, 0x10, 0x14] ∧ 0x14 ∈ [0x00, 0x02, 0x04, 0x06, 0x08, 0x0A, 0x10, 0x14] ∧
      0x0A ∈ [0x00, 0x02, 0x04, 0x06, 0x08, 0x0A] ∧
      (∀ k ∈ [91, 127, 128 + 31, 128 + 50, 128 + 63, 511, 512],
        (91 ≤ 2 * k / 2 ∧ 2 * k / 2 < 128) ∨
          (128 ≤ 2 * k / 2 ∧ 2 * k / 2 < 512 ∧ ((2 * k / 2 - 128) % 64 = 31 ∨ 50 ≤ (2 * k / 2 - 128) % 64)) ∨
            512 ≤ 2 * k / 2) ∧
      ∀ k ∈ [0, 90, 128, 128 + 30, 128 + 32, 128 + 49, 128 + 64, 128 + 64 * 5 + 49],
        ¬((91 ≤ 2 * k / 2 ∧ 2 * k / 2 < 128) ∨
          (128 ≤ 2 * k / 2 ∧ 2 * k / 2 < 512 ∧ ((2 * k / 2 - 128) % 64 = 31 ∨ 50 ≤ (2 * k / 2 - 128) % 64)) ∨
            512 ≤ 2 * k / 2) := by decide

/-- Fields at the ends of the two tables, an index of each kind that holds none, and an element of each list. -/
theorem witness_BackgroundFieldsReadBack :
    fieldWidth 0 = some 1 ∧ fieldWidth 1 = some 3 ∧ fieldWidth 3 = some 2 ∧ fieldWidth 4 = some 2 ∧
      fieldWidth (128 + 64 * 5 + 49) = some 16 ∧ (91 ≤ 91 ∧ 91 < 128) ∧
      (128 ≤ 511 ∧ 511 < 512 ∧ 50 ≤ (511 - 128) % 64) ∧ (128 + 31 - 128) % 64 = 31 ∧ 512 ≤ 512 ∧ 5 < 6 ∧ 7 < 8 ∧ 15 < 16 ∧
      (Slot.nbg3, 5) ∈ [(Slot.sprite, 0), (.rbg0, 1), (.nbg0, 2), (.nbg1, 3), (.nbg2, 4), (.nbg3, 5)] := by decide

/-- A negative offset, and BMBASE of slot 2 at its index. -/
theorem test_named_fields :
    (let t := memWrite16 (memWrite16 State.reset .reg2 (2 * 80) 0xFFFF) .reg2 (2 * (128 + 64 * 2 + 10)) 0x0006
     (t.cfg2.coaR, t.cfg2.bmbase .nbg0, (memRead16 t .reg2 (2 * 80)).2)) = (-1, 2, 0x01FF) := by decide +kernel

theorem witness_PhaseEventsCycleThePhases :
    ∀ h : HPhase, ∃ t, phaseEvent (inPhase h .topBorder 0) = .next t ∧ (t.timing.hphase == nextHPhase h) = true := by
  intro h
  cases h <;> exact exists_of_nextIs (by decide +kernel)

/-- Both sides of the right border's condition, the last line before `VLastLine`, the line before the wrap, and in
`VActive` the line on which `PeripheralRead` is raised, the one before it, and the same one already marked. -/
theorem witness_TriggersAreRaisedOnTheirLines :
    (State.reset.timing.hphase = .active ∧ State.reset.timing.vphase = .active ∧
      (inPhase .active .lastLine 262).timing.vphase ≠ .active) ∧
    (let s := inPhase .leftBorder .topBorder 261
     s.timing.hphase = .leftBorder ∧ s.timing.vphase = .topBorder ∧ s.vt.lastLine ≤ s.timing.vcnt + 1) ∧
    (let s := inPhase .leftBorder .lastLine 262
     s.timing.hphase = .leftBorder ∧ s.timing.vphase = .lastLine ∧ s.vt.total ≤ s.timing.vcnt + 1 ∧ 1 < s.vt.bottomBorder) ∧
    (let s := inPhase .leftBorder .active 222
     s.timing.hphase = .leftBorder ∧ s.timing.vphase = .active ∧ s.timing.vcnt + 1 < s.vt.bottomBorder ∧
      s.timing.periphDone = false ∧ s.vt.bottomBorder ≤ s.timing.vcnt + 2) ∧
    (let s := inPhase .leftBorder .active 221
     s.timing.vcnt + 1 < s.vt.bottomBorder ∧ ¬s.vt.bottomBorder ≤ s.timing.vcnt + 2) ∧
    (let s := inPhase .leftBorder .active 222
     ({ s with timing := { s.timing with periphDone := true } } : State).timing.periphDone = true) := by
  decide +kernel

/-- The line of the wrap; both sides of the threshold in `VBottomBorder`; the last line that stays in each of the other
phases. -/
theorem witness_LastDotCountsTheLine :
    ((inPhase .leftBorder .lastLine 262).timing.hphase = .leftBorder ∧
      ∃ t, phaseEvent (inPhase .leftBorder .lastLine 262) = .next t ∧ (t.timing.vcnt == 0) = true) ∧
    (let s := inPhase .leftBorder .bottomBorder 224
     let n := s.vt.blankingAndSync
     s.timing.vphase = .bottomBorder ∧ n ≤ (inPhase .leftBorder .bottomBorder (n - 1)).timing.vcnt + 1 ∧
      ¬n ≤ (inPhase .leftBorder .bottomBorder (n - 2)).timing.vcnt + 1) ∧
    (let s := inPhase .leftBorder .blankingAndSync 253
     s.timing.vphase = .blankingAndSync ∧ s.timing.vcnt + 1 < s.vt.topBorder) ∧
    (let s := inPhase .leftBorder .topBorder 260
     s.timing.vphase = .topBorder ∧ s.timing.vcnt + 1 < s.vt.lastLine) ∧
    (let s := inPhase .leftBorder .lastLine 261
     s.timing.vphase = .lastLine ∧ s.timing.vcnt + 1 < s.vt.total) :=
  ⟨⟨rfl, exists_of_nextIs (by decide +kernel)⟩, by decide +kernel, by decide +kernel, by decide +kernel, by decide +kernel⟩

theorem witness_BottomBorderErasesAndReportsTheFrame :
    (inPhase .leftBorder .active 223).timing.hphase = .leftBorder ∧
      (inPhase .leftBorder .active 223).timing.vphase = .active ∧
      (inPhase .leftBorder .active 223).vt.bottomBorder ≤ (inPhase .leftBorder .active 223).timing.vcnt + 1 ∧
      eraseActive (inPhase .leftBorder .active 223) = .next (inPhase .leftBorder .active 223).eraseDisplay :=
  ⟨rfl, rfl, by decide +kernel, eraseActive_admitted (by decide +kernel)⟩

theorem witness_TopBorderTakesTheResolution :
    (let s := inPhase .leftBorder .blankingAndSync 254
     let p : State := { s with timing := { s.timing with resPending := true } }
     s.timing.hphase = .leftBorder ∧ s.timing.vphase = .blankingAndSync ∧ s.vt.topBorder ≤ s.timing.vcnt + 1 ∧
      s.timing.resPending = false ∧ p.vt.topBorder ≤ p.timing.vcnt + 1 ∧ p.timing.resPending = true) := by
  decide +kernel

theorem witness_LastLineSwaps :
    (let s := inPhase .sync .lastLine 262
     s.timing.hphase = .sync ∧ s.timing.vphase = .lastLine ∧ s.reg1.fbSwapMode = 0 ∧
      ∃ t,
        swap { s with timing := { s.timing with hphase := .vblankOut }, fbc := { s.fbc with manualSwap := false } } =
          .next t) ∧
      (inPhase .sync .active 0).timing.hphase = .sync ∧ (inPhase .sync .active 0).timing.vphase ≠ .lastLine :=
  ⟨⟨rfl, rfl, rfl, _, swap_admitted (by decide +kernel)⟩, rfl, by decide⟩

theorem witness_DisabledDisplayFillsTheRow :
    (let s := inPhase .lastDot .active 223
     s.timing.hphase = .lastDot ∧ s.timing.vphase = .active ∧ s.cfg2.disp = false ∧ 319 < s.timing.outW) ∧
      (inPhase .lastDot .bottomBorder 224).timing.vphase ≠ .active := by decide +kernel

/-- Line 0, where the accumulators are initialised, and the last line. -/
theorem witness_ScanlineComposesTheRow :
    ∀ y ∈ [0, 223],
      (let s : State := { inPhase .lastDot .active y with cfg2 := cfg [(0, 1)] }
       s.timing.hphase = .lastDot ∧ s.timing.vphase = .active ∧ s.cfg2.disp = true ∧ s.admitted = true ∧
        319 < s.timing.outW ∧ s.timing.vcnt = y ∧ y + 1 ≠ s.timing.vcnt) := by decide +kernel

/-- A configuration whose slot 5 is enabled with a colour format. -/
def formatOf (v : Word) : Cfg2 := cfg [(0, 1), (Slot.fieldIndex .nbg3 0, 1), (Slot.fieldIndex .nbg3 3, v)]

/-- A configuration whose slot 1 is enabled in tile mode with the reserved plane size. -/
def reservedPlane : Cfg2 := cfg [(0, 1), (Slot.fieldIndex .rbg0 0, 1), (Slot.fieldIndex .rbg0 5, 2)]

/-- CRMD 3 with the greatest admitted SPTYPE, as a line is entered. -/
def reservedColours : State := { inPhase .lastDot .active 0 with cfg2 := cfg [(0, 1), (4, 3), (52, 7)] }

/-- Each reserved value at the end of its range: `tvMode` 1, SPTYPE 8 beside 7, CRMD 3, CHCN 5 and 7 of an enabled slot,
and PLSZ 2 of one in tile mode. -/
theorem witness_ReservedConfigurationsAreRefused :
    ({ State.reset with reg1 := { Reg1.reset with tvMode := 1 } } : State).reg1.tvMode ≠ 0 ∧ Instr.skip.isJump = false ∧
    8 ≤ (configured [(0, 1), (52, 8)]).cfg2.sptype ∧
    (reservedColours.timing.hphase = .lastDot ∧ reservedColours.timing.vphase = .active ∧
      reservedColours.cfg2.disp = true ∧ reservedColours.reg1.tvMode = 0 ∧ reservedColours.cfg2.sptype < 8 ∧
      reservedColours.cfg2.crmd = 3) ∧
    ((formatOf 5).enabled .nbg3 = true ∧ (formatOf 5).chcn .nbg3 = 5 ∧ (formatOf 7).enabled .nbg3 = true ∧
      (formatOf 7).chcn .nbg3 = 7) ∧
    (Slot.rbg0 ≠ .sprite ∧ reservedPlane.enabled .rbg0 = true ∧ reservedPlane.bmen .rbg0 = false ∧
      reservedPlane.plsz .rbg0 = 2) := by
  decide +kernel

theorem witness_SoftResetKeepsTheMemories : fieldWidth 90 ≠ none ∧ (319 : Nat) < 320 := by decide

/-- Parameters with another reset pattern. -/
def otherPattern : Params :=
  { Config.defaultParams with fillVram1 := [(0x7FFFF, 0xAA)], fillVram2 := [(0x7FFFF, 0xBB)], fillCram := [(0xFFF, 0xCC)] }

/-- The default pattern, and another one with a byte listed in the last place of each memory. -/
theorem witness_HardResetFillsTheMemories :
    (State.reset.params = Config.defaultParams ∧ 0x7FFFE < 0x80000 ∧ 0x7FFFE % 2 = 0 ∧ 0x7FFE0 % 0x20 = 0 ∧
      ∃ u, softReset State.reset = .next u) ∧
      lookupCell (otherPattern.fillVram1) 0x7FFFF = some 0xAA ∧ lookupCell (otherPattern.fillVram1) 0x7FFFE = none ∧
      lookupCell (otherPattern.fillCram) 0xFFF = some 0xCC ∧ paramsValid otherPattern = true ∧
      ∃ t, hardReset { State.reset with params := otherPattern } = .next t ∧
        (t.mem.read8 .vram1 0x7FFFF == 0xAA && t.mem.read8 .vram2 0x7FFFF == 0xBB && t.mem.read8 .cram 0xFFF == 0xCC) =
          true :=
  ⟨⟨rfl, by decide, by decide, by decide, _, logicReset_eq _⟩, by decide +kernel, by decide +kernel, by decide +kernel,
    by decide +kernel, exists_of_nextIs (by decide +kernel)⟩

/-- One dot for each slot: equal priorities in slots 2 and 3 (vector K1), and no candidate. -/
theorem witness_LowestSlotWinsEqualPriority :
    (let dot (p : BitVec 3) : LayerDot := { color := ⟨0, 0, 0⟩, transparent := false, priority := p, specialColorCalc := true }
     let b : LineBuffers := { LineBuffers.reset with layer := ⟨[dot 3], [dot 0], [dot 5], [dot 5], [dot 0], [dot 0]⟩ }
     (b.ranked 0).head? = some (.slot .nbg0) ∧ b.candidate 0 .nbg1 = true) ∧
      (LineBuffers.reset.ranked 0).head? = some .back := by decide +kernel

theorem witness_ColourArithmeticNeverWraps : (0 : Nat) ≤ 31 ∧ (31 : Nat) ≤ 31 := by decide

/-- Rule R418 of 45_compositor.md: each channel halved, downwards. -/
theorem test_shadow_halves : mapChannels (· / 2) ⟨255, 1, 0⟩ = ⟨127, 0, 0⟩ := by decide

/-- A slot that is off, both rotation layers on, and R1ON alone. -/
theorem witness_DisabledSlotsAreTransparent :
    Cfg2.enabled [] .nbg3 = false ∧ 703 < Config.maxOutW ∧ (cfg [(Slot.fieldIndex .rbg0 0, 1), (57, 1)]).on .rbg0 = true ∧
      (cfg [(Slot.fieldIndex .rbg0 0, 1), (57, 1)]).r1on = true ∧ (cfg [(57, 1)]).on .rbg0 = false ∧
      Slot.nbg3 ∈ [Slot.nbg0, .nbg1, .nbg2, .nbg3] := by decide +kernel

/-- A scroll layer shown, one that is off, one masked by its window, and both rotation layers. -/
theorem witness_EveryLayerOfALineIsRendered :
    (let s := configured [(0, 1), (Slot.fieldIndex .nbg0 0, 1)]
     319 < s.timing.outW ∧ s.cfg2.enabled .nbg0 = true ∧ s.cfg2.isRotation .nbg0 = false ∧
      (lineBuffers s 0).masked .nbg0 319 = false ∧ s.cfg2.enabled .nbg3 = false) ∧
    (let s := configured [(0, 1), (Slot.fieldIndex .nbg0 0, 1), (15, 319), (16, 0), (Slot.fieldIndex .nbg0 16, 0x41)]
     s.cfg2.wctl .nbg0 = 0x41 ∧ (lineBuffers s 0).masked .nbg0 319 = true) ∧
    (let s := configured [(0, 1), (Slot.fieldIndex .rbg0 0, 1), (57, 1)]
     s.cfg2.enabled .rbg0 = true ∧ s.cfg2.isRotation .rbg0 = true ∧ s.cfg2.enabled .nbg0 = true ∧
      s.cfg2.isRotation .nbg0 = true ∧ (lineBuffers s 0).masked .nbg0 319 = false) := by decide +kernel

/-- Both values of LOG, with every source enabled and with none; windows at their edges are in `test_windows`. -/
theorem witness_WindowSetsCombineTheirSources :
    (0x15 : BitVec 7).getLsbD 6 = false ∧ (0x55 : BitVec 7).getLsbD 6 = true ∧
      evalWindowSet 0x15 true false false = true ∧ evalWindowSet 0x55 true false false = false ∧
      evalWindowSet 0x55 true true true = true ∧ evalWindowSet 0x40 true true true = false ∧
      evalWindowSet 0x00 true true true = false ∧ (cfg [(17, 1)]).w0Lwe = true ∧ Cfg2.w0Lwe [] = false := by
  decide +kernel

/-- Each colour memory mode, each colour format at the last dot it can hold, and each special mode. -/
theorem witness_DotsDecodeByTheirFormat :
    Cfg2.crmd [] = 0 ∧ (cfg [(4, 1)]).crmd = 1 ∧ (cfg [(4, 2)]).crmd = 2 ∧
      (∀ k : Fin 5, (cfg [(Slot.fieldIndex .nbg0 3, BitVec.ofNat 16 k.val)]).chcn .nbg0 = k.val) ∧
      (15 < 16 ∧ 255 < 256 ∧ 0xFFFF < 2 ^ 16 ∧ 0xFFFFFFFF < 2 ^ 32) ∧
      (∀ k : Fin 4, (cfg [(Slot.fieldIndex .nbg0 13, BitVec.ofNat 16 k.val)]).sprm .nbg0 = k.val) ∧
      ∀ k : Fin 4, (cfg [(Slot.fieldIndex .nbg0 14, BitVec.ofNat 16 k.val)]).sccm .nbg0 = k.val := by decide +kernel

/-- Vector B2 and the last dot of a character of 16 by 16 dots, a negative map position, and the largest bitmap. -/
theorem witness_TilesAndBitmapsAddressTheirDots :
    ((Cfg2.chcn [] .nbg0, 32) ∈ [(0, 32), (1, 64), (2, 128), (3, 128), (4, 256)] ∧ (7 : Nat) < 8) ∧
      (cfg [(Slot.fieldIndex .nbg0 4, 1)]).chsz .nbg0 = true ∧ (15 : Nat) < 16 ∧ 0 < 2 ∧
      ((1023 : Nat) : Int) = (-1 : Int) % ((512 * 1 * 2 : Nat) : Int) ∧
      (2047 : Nat) = (-1 : Int) % ((512 * 1 * 4 : Nat) : Int) ∧
      ((cfg [(Slot.fieldIndex .nbg0 6, 3)]).bmsz .nbg0, 1024, 512) ∈
        [(0, 512, 256), (1, 512, 512), (2, 1024, 256), (3, 1024, 512)] ∧
      ((1023 : Nat) : Int) = (-1 : Int) % ((1024 : Nat) : Int) ∧ ((511 : Nat) : Int) = (-1 : Int) % ((512 : Nat) : Int) := by
  decide +kernel

/-- An enabled slot and one that is not, a line that reads a record and one that does not, and plain settings. -/
theorem witness_ScrollLayersFollowTheirTables :
    Slot.nbg3 ∈ [Slot.nbg0, .nbg1, .nbg2, .nbg3] ∧ (cfg [(Slot.fieldIndex .nbg3 0, 1)]).enabledScroll .nbg3 = true ∧
      Cfg2.enabledScroll [] .nbg3 = false ∧
      (let c := cfg [(Slot.fieldIndex .nbg0 0, 1), (Slot.fieldIndex .nbg0 30, 0x0F)]
       (c.lsctl .nbg0).toNat % 8 ≠ 0 ∧ 2 % 2 ^ ((c.lsctl .nbg0).toNat / 8 % 4) = 0 ∧
        3 % 2 ^ ((c.lsctl .nbg0).toNat / 8 % 4) ≠ 0) ∧
      Cfg2.scx [] .nbg0 = 0 ∧ Cfg2.scy [] .nbg0 = 0 ∧ Cfg2.mze [] .nbg0 = false ∧
      (Cfg2.lsctl [] .nbg0).getLsbD 5 = false ∧
      ({ Accumulators.reset with nbg0 := ⟨256 * (5 : Nat), 0, 0, 0, 256⟩ } : Accumulators).scroll .nbg0 =
        ⟨256 * (5 : Nat), 0, 0, 0, 256⟩ := by decide +kernel

/-- Coefficients in VRAM2 in a designated bank and in another, and in CRAM; each parameter mode; each coefficient mode;
identity parameters; and each kind of area with a point in its last corner and one beyond it. -/
theorem witness_RotationFollowsItsParameters :
    (Cfg2.crkte [] = false ∧ Cfg2.rdbs [] / 4 ^ (0x7FFFC / 0x20000) % 4 ≠ 1 ∧
      (cfg [(6, 0x40)]).rdbs / 4 ^ (0x7FFFC / 0x20000) % 4 = 1 ∧ (cfg [(5, 1)]).crkte = true) ∧
    ((0x7FFFC : Nat) : Int) = ((0 : Nat) + (-1 : Int) * 4) % 0x80000 ∧
    (∀ k : Fin 4, (cfg [(27, BitVec.ofNat 16 k.val)]).rpmd = k.val) ∧
    (∀ k : Fin 4, (cfg [(32, BitVec.ofNat 16 k.val)]).kmd .a = k.val) ∧
    (cfg [(30, 1)]).kte .a = true ∧ Cfg2.kte [] .a = false ∧
    (({ Accumulators.reset with
        rotA :=
          { rp :=
              { RotRecord.zero with
                a := 65536, e := 65536, dX := 65536, dYst := 65536, kx := 65536, ky := 65536 }
            xstAcc := 0
            ystAcc := 65536 * (9 : Nat)
            kaAcc := 0 } } : Accumulators).rot .a).ystAcc = 65536 * (9 : Nat) ∧
    ((cfg [(42, 3)]).over .a = 3 ∧ (cfg [(42, 1)]).over .a ≠ 3 ∧ Cfg2.bmen [] .rbg0 = false ∧
      (cfg [(Slot.fieldIndex .rbg0 2, 1)]).bmen .rbg0 = true ∧
      ((cfg [(Slot.fieldIndex .rbg0 2, 1)]).bmsz .rbg0, 512, 256) ∈
        [(0, 512, 256), (1, 512, 512), (2, 1024, 256), (3, 1024, 512)]) ∧
    ((0 : Int) ≤ 511 ∧ (511 : Int) < (512 : Nat) ∧ ¬((512 : Int) < (512 : Nat))) := by decide +kernel

/-- A 15-bit RGB word, the same word without SPCLMD, and a normal shadow of type 7. -/
theorem witness_SpriteWordsDecodeByTheirType :
    ((cfg [(53, 1)]).spclmd = true ∧ (0x8001 : Word).getLsbD 15 = true) ∧
      ¬(Cfg2.spclmd [] = true ∧ (0x8001 : Word).getLsbD 15 = true) ∧
      (spriteAttributes (cfg [(52, 7)]) State.reset.mem 0x01FE).normalShadow = true ∧
      (spriteLayerDot (cfg [(52, 7)]) State.reset.mem 0xFE00).transparent = true := by decide +kernel

/-- Three layers and the back, the top one with colour calculation enabled and not enabled. -/
theorem witness_PixelsBlendShadeAndOffset :
    (let dot (p : BitVec 3) : LayerDot := { color := ⟨0, 0, 0⟩, transparent := false, priority := p, specialColorCalc := true }
     let b : LineBuffers := { LineBuffers.reset with layer := ⟨[dot 3], [dot 0], [dot 5], [dot 4], [dot 0], [dot 0]⟩ }
     let c := cfg [(Slot.fieldIndex .nbg0 17, 1)]
     b.ranked 0 = .slot .nbg0 :: [.slot .nbg1, .slot .sprite, .back] ∧
      (entryAttrs c Accumulators.reset b 0 (.slot .nbg0)).ccen = true ∧
      (entryAttrs c Accumulators.reset b 0 (.slot .nbg0)).scc = true ∧ b.winCC.getD 0 false = false ∧
      (entryAttrs [] Accumulators.reset b 0 (.slot .nbg0)).ccen = false) := by decide +kernel

/-- The state after reset on its second line, with a phase event listed. -/
theorem witness_EveryStepKeepsTheStateLegal :
    (let s : State := { inPhase .active .active 1 with sched := [.phaseEvent .normal] }
     s.Legal ∧ ∃ t, step s = .next t ∧ (t.timing.hphase == .rightBorder) = true) := by
  refine ⟨?_, exists_of_nextIs (by decide +kernel)⟩
  refine ⟨by decide +kernel, by decide +kernel, by decide +kernel, ⟨rfl, rfl⟩, (fun h => by cases h), ?_, ?_, ?_,
    LineBuffers.sized_reset⟩
  · show false = resolutionPending [] _
    decide +kernel
  · show 1 < (224 : Nat) ∧ (false = true ↔ (224 : Nat) ≤ 1 + 1)
    decide
  · refine ⟨by decide +kernel, by decide +kernel, fun row h => ?_⟩
    have h' : row = (0, List.replicate 320 0xFF000000#32) := List.mem_singleton.1 h
    subst h'
    exact ⟨by decide +kernel, List.length_replicate⟩

theorem witness_RecordsAreOnlyAppended :
    ∃ t, step (listed [.commands 1]) = .next t ∧ (t.ctx.drawCalls == 0) = true := exists_of_nextIs (by decide +kernel)

theorem witness_OnlyTheBusWritesTheMemories :
    (∀ (r : Region) (a : Nat) (w : Width) (v : Long), (listed [.commands 1]).nextInput ≠ .busWrite r a w v) ∧
      (listed [.commands 1]).nextInput ≠ .hardReset ∧ ∃ t, step (listed [.commands 1]) = .next t ∧ (t.sched == []) = true :=
  ⟨(fun _ _ _ _ h => by cases h), (fun h => by cases h), exists_of_nextIs (by decide +kernel)⟩

theorem witness_AdmittedStepsComplete :
    (listed [.phaseEvent .debug]).admitted = true ∧ (configured [(0, 1), (52, 7)]).admitted = true ∧
      ∃ t, step (listed [.phaseEvent .debug]) = .next t ∧ (t.timing.hphase == .rightBorder) = true :=
  ⟨by decide +kernel, by decide +kernel, exists_of_nextIs (by decide +kernel)⟩

theorem witness_CommandsTouchOnlyTheirOwnState :
    (∃ t, exec .endList base = .next t ∧ (t.reg1.cef == 1) = true) ∧
      ∃ t, exec .jumpNext base = .next t ∧ (t.ctx.cmdAddr == 0x20) = true :=
  ⟨exists_of_nextIs (by decide +kernel), exists_of_nextIs (by decide +kernel)⟩

/-- Started by a register write, started by the swap of a phase event, stopped by a command. -/
theorem witness_RenderingChangesOnlyAsStated :
    (∃ t, step { State.reset with sched := [.busWrite .reg1 0x04 .word 1] } = .next t ∧ t.ctx.rendering = true) ∧
    (∃ t,
      step
          { inPhase .sync .lastLine 262 with
            reg1 := { Reg1.reset with plotTrigger := 2 }
            sched := [.phaseEvent .normal] } = .next t ∧ t.ctx.rendering = true) ∧
      ∃ t, step { placed base 0 [0x8000] with sched := [.commands 1] } = .next t ∧ (!t.ctx.rendering) = true :=
  ⟨exists_of_nextIs (by decide +kernel), exists_of_nextIs (by decide +kernel), exists_of_nextIs (by decide +kernel)⟩

/-- One line at the head of the list and the end at 0x20, two command steps granted. -/
def lineThenEnd : State := { placed (placed base 0 [0x0FF6]) 0x20 [0x8000] with sched := [.commands (1 + 1)] }

theorem witness_DrawListRunsToItsEnd :
    lineThenEnd.sched = .commands (1 + 1) :: [] ∧ lineThenEnd.ctx.rendering = true ∧ lineThenEnd.spriteAdmitted = true ∧
      lineThenEnd.ctx.cmdAddr.toNat + 0x20 * 1 < 0x80000 ∧
      (∀ k, k < 1 →
        ∃ opcode ∈ [0x0#16, 0x1#16, 0x2#16, 0x4#16, 0x5#16, 0x6#16],
          lineThenEnd.mem.read16 .vram1 (lineThenEnd.ctx.cmdAddr.toNat + 0x20 * k) &&& 0xF00F = opcode) ∧
      (lineThenEnd.mem.read16 .vram1 (lineThenEnd.ctx.cmdAddr.toNat + 0x20 * 1)).getLsbD 15 = true ∧ 0 ≤ 1 ∧ 1 ≤ 1 := by
  refine ⟨rfl, rfl, by decide +kernel, by decide +kernel, fun k hk => ?_, by decide +kernel, by decide, by decide⟩
  obtain rfl : k = 0 := by omega
  exact ⟨0x6#16, by decide, by decide +kernel⟩

/-- The end at the head of the list. -/
def endAtOnce : State := { placed base 0 [0x8000] with sched := [.commands (0 + 1)] }

/-- The empty list of draw commands. -/
theorem witness_DrawListRunsToItsEnd_empty :
    endAtOnce.sched = .commands (0 + 1) :: [] ∧ endAtOnce.ctx.rendering = true ∧ endAtOnce.spriteAdmitted = true ∧
      endAtOnce.ctx.cmdAddr.toNat + 0x20 * 0 < 0x80000 ∧
      (∀ k, k < 0 →
        ∃ opcode ∈ [0x0#16, 0x1#16, 0x2#16, 0x4#16, 0x5#16, 0x6#16],
          endAtOnce.mem.read16 .vram1 (endAtOnce.ctx.cmdAddr.toNat + 0x20 * k) &&& 0xF00F = opcode) ∧
      (endAtOnce.mem.read16 .vram1 (endAtOnce.ctx.cmdAddr.toNat + 0x20 * 0)).getLsbD 15 = true :=
  ⟨rfl, rfl, by decide +kernel, by decide +kernel, fun k hk => absurd hk (Nat.not_lt_zero k), by decide +kernel⟩

end Sys2Proof.Tests
end

section
/-! The inputs of a step: which one a step serves, and what serving it runs (00_scope.md rule R14, 70_reset_and_hazards.md
rule R497). -/

namespace Sys2Proof.Machine

theorem step_of_sched_cons {s : State} {i : Input} {rest : List Input} (h : s.sched = i :: rest) :
    step s = serve i { s with sched := rest, result := .nothing } := by
  simp only [step, State.nextInput, State.takeInput, h]

theorem step_of_sched_nil {s : State} (h : s.sched = []) :
    step s = serve (Config.envChoice s.tick) { s with tick := s.tick + 1, result := .nothing } := by
  simp only [step, State.nextInput, State.takeInput, h]

/-- The low bits of a value as a bit field and as the remainder a bus width keeps (20_memory.md rule R91). -/
theorem extractLsb'_zero_eq_ofNat_mod {w : Nat} (n : Nat) (v : BitVec w) :
    v.extractLsb' 0 n = BitVec.ofNat n (v.toNat % 2 ^ n) := by
  apply BitVec.eq_of_toNat_eq
  rw [BitVec.extractLsb'_toNat, BitVec.toNat_ofNat, Nat.shiftRight_zero, Nat.mod_mod]

theorem busWrite_byte (s : State) (r : Region) (a : Nat) (v : Long) :
    busWrite s r a .byte v = memWrite8 s r a (BitVec.ofNat 8 (v.toNat % 2 ^ 8)) :=
  congrArg (memWrite8 s r a) (extractLsb'_zero_eq_ofNat_mod 8 v)

theorem busWrite_word (s : State) (r : Region) (a : Nat) (v : Long) :
    busWrite s r a .word v = memWrite16 s r a (BitVec.ofNat 16 (v.toNat % 2 ^ 16)) :=
  congrArg (memWrite16 s r a) (extractLsb'_zero_eq_ofNat_mod 16 v)

theorem busWrite_long (s : State) (r : Region) (a : Nat) (v : Long) : busWrite s r a .long v = memWrite32 s r a v := rfl

theorem serve_busWrite (s : State) (r : Region) (a : Nat) (w : Width) (v : Long) :
    serve (.busWrite r a w v) s = .next (busWrite s r a w v) := rfl

/-- Both handlers run one function (43_display_timing.md rule R281). -/
theorem serve_phaseEvent (s : State) (h : Handler) : serve (.phaseEvent h) s = phaseEvent s := by
  cases h with
  | normal => rfl
  | debug => rfl

theorem serve_commands_zero (s : State) : serve (.commands 0) s = .next s := rfl

/-- Settles O6: the case split on the listed inputs says which input a step takes, and one equation per kind of input
says what serving it runs; only the narrow writes need arithmetic, the low bits being a remainder. -/
theorem stepServesTheNextInput : Obligations.StepServesTheNextInput := by
  unfold Obligations.StepServesTheNextInput
  refine ⟨fun s i rest h => step_of_sched_cons h, fun s h => step_of_sched_nil h, fun s r a v => ⟨?_, ?_, ?_⟩,
    serve_phaseEvent, fun s => ⟨serve_commands_zero s, fun _ _ _ => rfl, fun _ => rfl, rfl, rfl⟩⟩
  · rw [serve_busWrite, busWrite_byte]
  · rw [serve_busWrite, busWrite_word]
  · rw [serve_busWrite, busWrite_long]

end Sys2Proof.Machine
end

section
/-! The whole machine: every step keeps a state legal, and only appends to the two lists of records (10_state.md rules
R20, R71). -/

namespace Sys2Proof.Machine

theorem eq_of_next {s t : State} (e : (.next s : Host.Outcome State Fault Refusal) = .next t) : t = s := by
  injection e with e; exact e.symm

/-! ### Legal states -/

theorem legal_takeInput {s : State} (h : s.Legal) : s.takeInput.Legal := by
  unfold State.takeInput
  split
  · exact legal_congr h rfl h.memory rfl rfl rfl rfl rfl rfl
  · exact legal_congr h rfl h.memory rfl rfl rfl rfl rfl rfl

/-- Serving an input keeps a state legal; a reset needs only legal parameters and memories. -/
theorem legal_serve {s t : State} {i : Input} (h : s.Legal) (e : serve i s = .next t) : t.Legal := by
  cases i with
  | busRead r a w => exact eq_of_next e ▸ legal_busRead h r a w
  | busWrite r a w v => exact eq_of_next e ▸ legal_busWrite h r a w v
  | phaseEvent hd => exact legal_phase h (serve_phaseEvent s hd ▸ e)
  | commands n => exact legal_commands n h e
  | hardReset => exact legal_resets (s := { s with mem := resetArena s.params }) h.params (resetArena_wf h.params) e
  | softReset => exact legal_resets h.params h.memory e
  | dump r => exact eq_of_next e ▸ legal_congr h rfl h.memory rfl rfl rfl rfl rfl rfl

/-- Settles O54: taking an input keeps what `Legal` reads, and serving it keeps a state legal, one lemma for each kind of
input. -/
theorem everyStepKeepsTheStateLegal : Obligations.EveryStepKeepsTheStateLegal := by
  unfold Obligations.EveryStepKeepsTheStateLegal
  exact fun _ _ h e => legal_serve (legal_takeInput h) e

/-! ### The records -/

/-- From one state to another the two lists of records are only appended to, and the parameters are kept. -/
def State.OnlyAppends (s t : State) : Prop := s.out <+: t.out ∧ s.diag <+: t.diag ∧ t.params = s.params

theorem State.OnlyAppends.of_eq {s t : State} (ho : t.out = s.out) (hd : t.diag = s.diag) (hp : t.params = s.params) :
    s.OnlyAppends t := ⟨ho ▸ List.prefix_rfl, hd ▸ List.prefix_rfl, hp⟩

theorem State.OnlyAppends.refl (s : State) : s.OnlyAppends s := .of_eq rfl rfl rfl

theorem State.OnlyAppends.trans {s t u : State} (h : s.OnlyAppends t) (k : t.OnlyAppends u) : s.OnlyAppends u :=
  ⟨h.1.trans k.1, h.2.1.trans k.2.1, k.2.2.trans h.2.2⟩

theorem onlyAppends_log (s : State) (r : DiagRecord) : s.OnlyAppends (s.log r) :=
  ⟨List.prefix_rfl, List.prefix_append _ _, rfl⟩

theorem onlyAppends_emit (s : State) (r : OutRecord) : s.OnlyAppends (s.emit r) :=
  ⟨List.prefix_append _ _, List.prefix_rfl, rfl⟩

theorem onlyAppends_takeInput (s : State) : s.OnlyAppends s.takeInput := by
  unfold State.takeInput
  split
  · exact .of_eq rfl rfl rfl
  · exact .of_eq rfl rfl rfl

/-! ### The records: bus accesses -/

theorem onlyAppends_memRead16 (s : State) (r : Region) (a : Nat) : s.OnlyAppends (memRead16 s r a).1 := by
  obtain ⟨records, h⟩ := memRead16_diag s r a
  rw [h]
  exact ⟨List.prefix_rfl, List.prefix_append _ _, rfl⟩

theorem onlyAppends_memRead8 (s : State) (r : Region) (a : Nat) : s.OnlyAppends (memRead8 s r a).1 := by
  unfold memRead8
  split
  · exact .refl s
  · exact onlyAppends_log s _

theorem onlyAppends_busRead (s : State) (r : Region) (a : Nat) (w : Width) : s.OnlyAppends (busRead s r a w) := by
  cases w with
  | byte => exact onlyAppends_memRead8 s r a
  | word => exact onlyAppends_memRead16 s r a
  | long => exact (onlyAppends_memRead16 s r a).trans (onlyAppends_memRead16 _ r (a + 2))

theorem onlyAppends_writePtmr (s : State) (v : Word) : s.OnlyAppends (writePtmr s v) := by
  unfold writePtmr
  dsimp only
  split
  · exact .of_eq rfl rfl rfl
  · exact .of_eq rfl rfl rfl

theorem onlyAppends_reg1Write (s : State) (a : Nat) (v : Word) : s.OnlyAppends (reg1Write s a v) := by
  unfold reg1Write
  split
  · exact .of_eq rfl rfl rfl
  · exact .of_eq rfl rfl rfl
  · exact onlyAppends_writePtmr s v
  · exact .of_eq rfl rfl rfl
  · exact .of_eq rfl rfl rfl
  · exact .of_eq rfl rfl rfl
  · exact onlyAppends_log s _

theorem onlyAppends_reg2Write (s : State) (a : Nat) (v : Word) : s.OnlyAppends (reg2Write s a v) := by
  unfold reg2Write
  split
  · exact .of_eq rfl rfl rfl
  · exact onlyAppends_log s _

theorem onlyAppends_memWrite16 (s : State) (r : Region) (a : Nat) (v : Word) : s.OnlyAppends (memWrite16 s r a v) := by
  unfold memWrite16
  split
  · exact onlyAppends_log s _
  · cases r with
    | reg1 => exact onlyAppends_reg1Write s a v
    | reg2 => exact onlyAppends_reg2Write s a v
    | vram1 => exact .of_eq rfl rfl rfl
    | fb => exact .of_eq rfl rfl rfl
    | vram2 => exact .of_eq rfl rfl rfl
    | cram => exact .of_eq rfl rfl rfl

theorem onlyAppends_memWrite8 (s : State) (r : Region) (a : Nat) (v : Byte) : s.OnlyAppends (memWrite8 s r a v) := by
  unfold memWrite8
  split
  · exact .of_eq rfl rfl rfl
  · exact onlyAppends_log s _

theorem onlyAppends_busWrite (s : State) (r : Region) (a : Nat) (w : Width) (v : Long) :
    s.OnlyAppends (busWrite s r a w v) := by
  cases w with
  | byte => exact onlyAppends_memWrite8 s r a _
  | word => exact onlyAppends_memWrite16 s r a _
  | long => exact (onlyAppends_memWrite16 s r a _).trans (onlyAppends_memWrite16 _ r (a + 2) _)

/-! ### The records: commands -/

theorem onlyAppends_exec {s t : State} {i : Instr} (e : exec i s = .next t) : s.OnlyAppends t := by
  rcases exec_cases e with ⟨_, records, _, rfl, -⟩ | ⟨records, rfl⟩
  · exact ⟨List.prefix_rfl, List.prefix_append _ _, rfl⟩
  · exact ⟨List.prefix_append _ _, List.prefix_append _ _, rfl⟩

theorem onlyAppends_runCommand {s t : State} {c : Command} (e : runCommand c s = .next t) : s.OnlyAppends t := by
  obtain ⟨u, hop, hjump⟩ := andThen_eq_next.1 e
  have hu := onlyAppends_exec hop
  split at hjump
  · exact eq_of_next hjump ▸ hu
  · exact hu.trans (onlyAppends_exec hjump)

theorem onlyAppends_keepGrant (s : State) (n : Nat) : s.OnlyAppends (s.keepGrant n) := by
  cases n with
  | zero => exact .refl s
  | succ n => exact .of_eq rfl rfl rfl

theorem onlyAppends_processCommands {s t : State} {n : Nat} (e : processCommands n s = .next t) : s.OnlyAppends t := by
  cases n with
  | zero => exact eq_of_next e ▸ .refl s
  | succ n =>
    rw [processCommands] at e
    split at e
    · exact (onlyAppends_keepGrant s n).trans (onlyAppends_runCommand e)
    · exact eq_of_next e ▸ .refl s

/-! ### The records: phase events -/

theorem onlyAppends_swap {s t : State} (e : swap s = .next t) : s.OnlyAppends t := by
  rw [(swap_eq_next.1 e).2, restartIfContinuous_eq, serveManualErase_eq]
  exact onlyAppends_emit s .bufferSwap

theorem onlyAppends_enterHVBlankOut {s t : State} (e : enterHVBlankOut s = .next t) : s.OnlyAppends t := by
  unfold enterHVBlankOut at e
  split at e
  · exact onlyAppends_swap (s := { s with fbc := { s.fbc with manualSwap := false } }) e
  · exact eq_of_next e ▸ .refl s

theorem onlyAppends_enterHRightBorder (s : State) : s.OnlyAppends (enterHRightBorder s) := by
  unfold enterHRightBorder
  split
  · exact onlyAppends_emit s _
  · exact .refl s

theorem onlyAppends_renderScanline {s t : State} {y : Nat} (e : renderScanline s y = .next t) : s.OnlyAppends t := by
  rcases renderScanline_eq_next.1 e with ⟨-, rfl⟩ | ⟨-, -, -, rfl⟩
  · exact .of_eq rfl rfl rfl
  · exact .of_eq rfl rfl rfl

theorem onlyAppends_enterHActive {s t : State} (e : enterHActive s = .next t) : s.OnlyAppends t := by
  unfold enterHActive at e
  split at e
  · have hinit : s.OnlyAppends (if s.timing.vcnt = 0 then frameInit s else s) := by
      rw [frameInit_if]; exact .of_eq rfl rfl rfl
    exact hinit.trans (onlyAppends_renderScanline e)
  · exact eq_of_next e ▸ .refl s

theorem onlyAppends_eraseIfConfigured {s t : State} (e : eraseIfConfigured s = .next t) : s.OnlyAppends t := by
  unfold eraseIfConfigured at e
  split at e
  · rw [(eraseActive_eq_next.1 e).2]; exact .of_eq rfl rfl rfl
  · exact eq_of_next e ▸ .refl s

theorem onlyAppends_enterVBottomBorder {s t : State} (e : enterVBottomBorder s = .next t) : s.OnlyAppends t := by
  obtain ⟨u, herase, hframe⟩ := andThen_eq_next.1 e
  rw [eq_of_next hframe]
  exact ((onlyAppends_emit s _).trans (onlyAppends_eraseIfConfigured herase)).trans (onlyAppends_emit u _)

theorem onlyAppends_enterVTopBorder (s : State) : s.OnlyAppends (enterVTopBorder s) := by
  unfold enterVTopBorder
  split
  · exact onlyAppends_emit s _
  · exact .refl s

/-- The line stays in its vertical phase, or enters the next one by that phase's entry action. -/
theorem verticalTransition_cases {s t : State} (e : verticalTransition s = .next t) :
    t = s ∨ enterVBottomBorder (s.inVPhase .bottomBorder) = .next t ∨ t = s.inVPhase .blankingAndSync ∨
      t = enterVTopBorder (s.inVPhase .topBorder) ∨ t = enterVLastLine (s.inVPhase .lastLine) ∨
        t = enterVActive (s.inVPhase .active) := by
  unfold verticalTransition at e
  split at e
  · split at e
    · exact .inr (.inl e)
    · exact .inl (eq_of_next e)
  · split at e
    · exact .inr (.inr (.inl (eq_of_next e)))
    · exact .inl (eq_of_next e)
  · split at e
    · exact .inr (.inr (.inr (.inl (eq_of_next e))))
    · exact .inl (eq_of_next e)
  · split at e
    · exact .inr (.inr (.inr (.inr (.inl (eq_of_next e)))))
    · exact .inl (eq_of_next e)
  · split at e
    · exact .inr (.inr (.inr (.inr (.inr (eq_of_next e)))))
    · exact .inl (eq_of_next e)

theorem onlyAppends_verticalTransition {s t : State} (e : verticalTransition s = .next t) : s.OnlyAppends t := by
  rcases verticalTransition_cases e with rfl | h | rfl | rfl | rfl | rfl
  · exact .refl _
  · exact onlyAppends_enterVBottomBorder (s := s.inVPhase .bottomBorder) h
  · exact .of_eq rfl rfl rfl
  · exact onlyAppends_enterVTopBorder (s.inVPhase .topBorder)
  · exact onlyAppends_emit (s.inVPhase .lastLine) _
  · exact .of_eq rfl rfl rfl

theorem onlyAppends_peripheralCheck (s : State) : s.OnlyAppends (peripheralCheck s) := by
  unfold peripheralCheck
  split
  · exact onlyAppends_emit s _
  · exact .refl s

theorem onlyAppends_enterHLastDot {s t : State} (e : enterHLastDot s = .next t) : s.OnlyAppends t := by
  obtain ⟨u, hv, hp⟩ := andThen_eq_next.1 e
  rw [eq_of_next hp]
  exact (onlyAppends_verticalTransition (s := s.countLine) hv).trans (onlyAppends_peripheralCheck u)

theorem onlyAppends_enterHPhase {s t : State} {h : HPhase} (e : enterHPhase h s = .next t) : s.OnlyAppends t := by
  cases h with
  | active => exact onlyAppends_enterHActive e
  | rightBorder => exact eq_of_next e ▸ onlyAppends_enterHRightBorder s
  | sync => exact eq_of_next e ▸ .refl s
  | vblankOut => exact onlyAppends_enterHVBlankOut e
  | leftBorder => exact eq_of_next e ▸ .refl s
  | lastDot => exact onlyAppends_enterHLastDot e

theorem onlyAppends_phaseEvent {s t : State} (e : phaseEvent s = .next t) : s.OnlyAppends t := by
  obtain ⟨u, he, rfl⟩ := phaseEvent_eq_next.1 e
  exact onlyAppends_enterHPhase (s := s.nextPhase) (t := u) he

/-! ### The records: resets and steps -/

theorem onlyAppends_logicReset {s t : State} (e : logicReset s = .next t) : s.OnlyAppends t := by
  rw [logicReset_eq] at e
  rw [eq_of_next e]
  exact .of_eq rfl rfl rfl

theorem onlyAppends_serve {s t : State} {i : Input} (e : serve i s = .next t) : s.OnlyAppends t := by
  cases i with
  | busRead r a w => exact eq_of_next e ▸ onlyAppends_busRead s r a w
  | busWrite r a w v => exact eq_of_next e ▸ onlyAppends_busWrite s r a w v
  | phaseEvent hd => exact onlyAppends_phaseEvent (serve_phaseEvent s hd ▸ e)
  | commands n => exact onlyAppends_processCommands e
  | hardReset => exact onlyAppends_logicReset (s := { s with mem := resetArena s.params }) e
  | softReset => exact onlyAppends_logicReset e
  | dump r => exact eq_of_next e ▸ .of_eq rfl rfl rfl

/-- Settles O55: taking an input touches neither list, and each part of serving it only appends, so the whole step does
by transitivity. -/
theorem recordsAreOnlyAppended : Obligations.RecordsAreOnlyAppended := by
  unfold Obligations.RecordsAreOnlyAppended
  exact fun s _ e => (onlyAppends_takeInput s).trans (onlyAppends_serve e)

end Sys2Proof.Machine
end

section
/-! The bus, case by case: what one access answers in a memory region, in a register region, and at an odd offset
(20_memory.md rules R84 to R89). -/

namespace Sys2Proof.Machine

/-! ### Reads -/

theorem memRead8_memory {s : State} {r : Region} {id : MemId} (h : s.memOf r = some id) (a : Nat) :
    memRead8 s r a = (s, s.mem.read8 id a) := by simp only [memRead8, h]

theorem memRead8_register {s : State} {r : Region} (h : s.memOf r = none) (a : Nat) :
    memRead8 s r a = (s.logIllegal r a 1 false, 0) := by simp only [memRead8, h]

theorem memRead16_odd (s : State) (r : Region) {a : Nat} (ha : a % 2 = 1) :
    memRead16 s r a = (s.logIllegal r a 2 false, 0) := if_pos ha

theorem memRead16_memory {s : State} {r : Region} {id : MemId} (h : s.memOf r = some id) {a : Nat} (ha : a % 2 = 0) :
    memRead16 s r a = (s, s.mem.read16 id a) := by simp [memRead16, h, ha]

theorem memRead16_register {s : State} {r : Region} (h : s.memOf r = none) {a : Nat} (ha : a % 2 = 0) {w : Word}
    (hw : s.regWord r a = some w) : memRead16 s r a = (s, w) := by simp [memRead16, h, ha, hw]

theorem memRead16_missing {s : State} {r : Region} (h : s.memOf r = none) {a : Nat} (ha : a % 2 = 0)
    (hw : s.regWord r a = none) : memRead16 s r a = (s.logRegister r a false, 0) := by simp [memRead16, h, ha, hw]

/-- The value of a word read of a register region: 0 where there is no register (20_memory.md rule R89). -/
theorem memRead16_register_value {s : State} {r : Region} (h : s.memOf r = none) {a : Nat} (ha : a % 2 = 0) :
    (memRead16 s r a).2 = (s.regWord r a).getD 0 := by
  cases hw : s.regWord r a with
  | none => rw [memRead16_missing h ha hw]; rfl
  | some w => rw [memRead16_register h ha hw]; rfl

theorem memRead32_memory {s : State} {r : Region} {id : MemId} (h : s.memOf r = some id) {a : Nat} (ha : a % 2 = 0) :
    memRead32 s r a = (s, s.mem.read32 id a) := by
  have ha2 : (a + 2) % 2 = 0 := by omega
  simp only [memRead32, memRead16_memory h ha, memRead16_memory h ha2, Arena.read32]

/-- Each half of a long at an odd offset is its own illegal access (20_memory.md rules R84, R88). -/
theorem memRead32_odd (s : State) (r : Region) {a : Nat} (ha : a % 2 = 1) :
    memRead32 s r a = ((s.logIllegal r a 2 false).logIllegal r (a + 2) 2 false, 0) := by
  have ha2 : (a + 2) % 2 = 1 := by omega
  simp only [memRead32, memRead16_odd _ r ha, memRead16_odd _ r ha2]
  rfl

/-! ### Writes -/

/-- Which memory a region is does not depend on what the memories hold. -/
theorem State.memOf_of_mem (s : State) (m : Arena) (r : Region) :
    ({ s with mem := m } : State).memOf r = s.memOf r := by
  cases r <;> rfl

theorem memWrite8_memory {s : State} {r : Region} {id : MemId} (h : s.memOf r = some id) (a : Nat) (v : Byte) :
    memWrite8 s r a v = { s with mem := s.mem.write8 id a v } := by simp only [memWrite8, h]

theorem memWrite8_register {s : State} {r : Region} (h : s.memOf r = none) (a : Nat) (v : Byte) :
    memWrite8 s r a v = s.logIllegal r a 1 true := by simp only [memWrite8, h]

theorem memWrite16_odd (s : State) (r : Region) {a : Nat} (ha : a % 2 = 1) (v : Word) :
    memWrite16 s r a v = s.logIllegal r a 2 true := if_pos ha

theorem memWrite16_memory {s : State} {r : Region} {id : MemId} (h : s.memOf r = some id) {a : Nat} (ha : a % 2 = 0)
    (v : Word) : memWrite16 s r a v = { s with mem := s.mem.write16 id a v } := by
  have ha1 : ¬a % 2 = 1 := by omega
  cases r with
  | vram1 | fb | vram2 | cram => cases h; exact if_neg ha1
  | reg1 | reg2 => cases h

theorem memWrite16_reg1 (s : State) {a : Nat} (ha : a % 2 = 0) (v : Word) :
    memWrite16 s .reg1 a v = reg1Write s a v := if_neg (by omega)

theorem memWrite16_reg2 (s : State) {a : Nat} (ha : a % 2 = 0) (v : Word) :
    memWrite16 s .reg2 a v = reg2Write s a v := if_neg (by omega)

theorem memWrite32_odd (s : State) (r : Region) {a : Nat} (ha : a % 2 = 1) (v : Long) :
    memWrite32 s r a v = (s.logIllegal r a 2 true).logIllegal r (a + 2) 2 true := by
  have ha2 : (a + 2) % 2 = 1 := by omega
  rw [memWrite32, memWrite16_odd s r ha, memWrite16_odd _ r ha2]

end Sys2Proof.Machine
end

section
/-! The memory regions: bytes, words and longs read back as written, every other byte kept (20_memory.md rules R83 to
R87, R93). -/

namespace Sys2Proof.Machine

/-! ### Words -/

theorem Arena.read8_write16_high (m : Arena) (id : MemId) (a : Nat) (v : Word) :
    (m.write16 id a v).read8 id a = v.extractLsb' 8 8 := by
  rw [Arena.read8_write16, if_neg (id.succ_mod_ne a).symm, if_pos rfl]

theorem Arena.read8_write16_low (m : Arena) (id : MemId) (a : Nat) (v : Word) :
    (m.write16 id a v).read8 id (a + 1) = v.extractLsb' 0 8 := by rw [Arena.read8_write16, if_pos rfl]

/-- A byte of another memory, or at another offset of the same one, is kept by a byte write. -/
theorem Arena.read8_write8_frame (m : Arena) {id id' : MemId} {a b : Nat} (v : Byte)
    (h : id' ≠ id ∨ b % id.size ≠ a % id.size) : (m.write8 id a v).read8 id' b = m.read8 id' b := by
  by_cases e : id' = id
  · subst e
    exact m.read8_write8_ne id' v (h.resolve_left fun hne => hne rfl)
  · exact m.read8_write8_other a b v e

/-- A byte outside the two of a word is kept by the word's write. -/
theorem Arena.read8_write16_frame (m : Arena) {id id' : MemId} {a b : Nat} (v : Word)
    (h : id' ≠ id ∨ (b % id.size ≠ a % id.size ∧ b % id.size ≠ (a + 1) % id.size)) :
    (m.write16 id a v).read8 id' b = m.read8 id' b := by
  rw [Arena.write16, Arena.read8_write8_frame _ _ (h.imp_right And.right),
    Arena.read8_write8_frame _ _ (h.imp_right And.left)]

/-! ### Longs -/

/-- A big-endian long written as two words, the high one first (20_memory.md rules R83, R84). -/
def Arena.write32 (m : Arena) (id : MemId) (a : Nat) (v : Long) : Arena :=
  (m.write16 id a (v.extractLsb' 16 16)).write16 id (a + 2) (v.extractLsb' 0 16)

/-- The two words of a long lie at different offsets: every memory is longer than a word. -/
theorem MemId.add_two_mod_ne (id : MemId) (a : Nat) : a % id.size ≠ (a + 2) % id.size := by
  cases id with
  | vram1 | vram2 => simp only [MemId.size, Config.vram1Bytes, Config.vram2Bytes]; omega
  | fb0 | fb1 => simp only [MemId.size, Config.fbBytes]; omega
  | cram => simp only [MemId.size, Config.cramBytes]; omega

theorem Arena.read16_write32_high (m : Arena) (id : MemId) {a : Nat} (ha : a % 2 = 0) (v : Long) :
    (m.write32 id a v).read16 id a = v.extractLsb' 16 16 := by
  have ha2 : (a + 2) % 2 = 0 := by omega
  rw [Arena.write32, Arena.read16_write16_ne _ _ _ ha2 ha (id.add_two_mod_ne a), Arena.read16_write16_same _ _ _ rfl]

theorem Arena.read16_write32_low (m : Arena) (id : MemId) (a : Nat) (v : Long) :
    (m.write32 id a v).read16 id (a + 2) = v.extractLsb' 0 16 := Arena.read16_write16_same _ _ _ rfl

theorem Arena.read32_write32 (m : Arena) (id : MemId) {a : Nat} (ha : a % 2 = 0) (v : Long) :
    (m.write32 id a v).read32 id a = v := by
  rw [Arena.read32, m.read16_write32_high id ha, m.read16_write32_low]
  exact BitVec.extractLsb'_append_extractLsb'

/-- A byte outside the four of a long is kept by the long's write. -/
theorem Arena.read8_write32_frame (m : Arena) {id id' : MemId} {a b : Nat} (v : Long)
    (h : id' ≠ id ∨ ∀ k, k < 4 → b % id.size ≠ (a + k) % id.size) :
    (m.write32 id a v).read8 id' b = m.read8 id' b :=
  calc (m.write32 id a v).read8 id' b
      = (m.write16 id a (v.extractLsb' 16 16)).read8 id' b :=
        Arena.read8_write16_frame _ _ (h.imp_right fun hk => ⟨hk 2 (by decide), hk 3 (by decide)⟩)
    _ = m.read8 id' b :=
        Arena.read8_write16_frame _ _ (h.imp_right fun hk => ⟨hk 0 (by decide), hk 1 (by decide)⟩)

theorem memWrite32_memory {s : State} {r : Region} {id : MemId} (h : s.memOf r = some id) {a : Nat} (ha : a % 2 = 0)
    (v : Long) : memWrite32 s r a v = { s with mem := s.mem.write32 id a v } := by
  have ha2 : (a + 2) % 2 = 0 := by omega
  rw [memWrite32, memWrite16_memory h ha, memWrite16_memory ((s.memOf_of_mem _ r).trans h) ha2]
  rfl

/-! ### The statement -/

/-- Settles O26: an access to a memory region is one to the arena, so each clause is the arena's read-after-write or its
frame; the halves of a word and of a long do not meet, every memory being longer than a word. -/
theorem memoriesAreBigEndian : Obligations.MemoriesAreBigEndian := by
  unfold Obligations.MemoriesAreBigEndian
  intro s r id a h
  have hw (m : Arena) : ({ s with mem := m } : State).memOf r = some id := (s.memOf_of_mem m r).trans h
  refine ⟨fun v => ?_, fun ha => ⟨fun v => ?_, fun v => ?_⟩⟩
  · rw [memWrite8_memory h, memRead8_memory (hw _)]
    exact ⟨Arena.read8_write8_same _ _ _ rfl, rfl, fun _ _ => Arena.read8_write8_frame _ v⟩
  · rw [memWrite16_memory h ha, memRead8_memory (hw _), memRead8_memory (hw _), memRead16_memory (hw _) ha]
    exact ⟨Arena.read8_write16_high .., Arena.read8_write16_low .., Arena.read16_write16_same _ _ _ rfl, rfl,
      fun _ _ => Arena.read8_write16_frame _ v⟩
  · have ha2 : (a + 2) % 2 = 0 := by omega
    rw [memWrite32_memory h ha, memRead16_memory (hw _) ha, memRead16_memory (hw _) ha2, memRead32_memory (hw _) ha]
    exact ⟨Arena.read16_write32_high _ _ ha v, Arena.read16_write32_low .., Arena.read32_write32 _ _ ha v, rfl,
      fun _ _ => Arena.read8_write32_frame _ v⟩

end Sys2Proof.Machine
end

section
/-! Accesses that answer nothing: E1 for an illegal width or an odd offset, E2 for an offset without a register
(20_memory.md rules R85, R88, R89; 60_exceptions.md rule R453). -/

namespace Sys2Proof.Machine

theorem State.memOf_eq_none_iff (s : State) (r : Region) : s.memOf r = none ↔ r = .reg1 ∨ r = .reg2 := by
  cases r <;> simp [State.memOf]

/-! ### Region REG1 -/

/-- The offsets of REG1 that hold a register (30_encoding.md rule R140). -/
theorem reg1Word_eq_none_iff (s : State) (a : Nat) :
    s.reg1Word a = none ↔ a ∉ [0x00, 0x02, 0x04, 0x06, 0x08, 0x0A, 0x10, 0x14] := by
  unfold State.reg1Word
  split <;> simp_all

theorem reg1Write_missing (s : State) {a : Nat} (h : a ∉ [0x00, 0x02, 0x04, 0x06, 0x08, 0x0A]) (v : Word) :
    reg1Write s a v = s.logRegister .reg1 a true := by
  unfold reg1Write
  split <;> simp_all

theorem writePtmr_diag (s : State) (v : Word) : (writePtmr s v).diag = s.diag := by
  unfold writePtmr
  dsimp only
  split
  · rfl
  · rfl

theorem reg1Write_diag (s : State) {a : Nat} (h : a ∈ [0x00, 0x02, 0x04, 0x06, 0x08, 0x0A]) (v : Word) :
    (reg1Write s a v).diag = s.diag := by
  simp only [List.mem_cons, List.not_mem_nil, or_false] at h
  rcases h with rfl | rfl | rfl | rfl | rfl | rfl
  · rfl
  · rfl
  · exact writePtmr_diag s v
  · rfl
  · rfl
  · rfl

/-! ### Region REG2 -/

/-- The indices of a slot with width 0 in the table, those past its end read as 0 (10_state.md rule R58). -/
theorem layerFieldWidths_getD_eq_zero_iff :
    ∀ j < 64, layerFieldWidths[j]?.getD 0 = 0 ↔ j = 31 ∨ 50 ≤ j := by decide

/-- The indices that hold no field: past the global ones, past the slots, and in a slot 31 and from 50 on (10_state.md
rules R56 to R58). -/
theorem fieldWidth_eq_none_iff (k : Nat) :
    fieldWidth k = none ↔
      (91 ≤ k ∧ k < 128) ∨ (128 ≤ k ∧ k < 512 ∧ ((k - 128) % 64 = 31 ∨ 50 ≤ (k - 128) % 64)) ∨ 512 ≤ k := by
  have hglobal : globalFieldWidths[k]? = none ↔ 91 ≤ k := List.getElem?_eq_none_iff
  have hlayer := layerFieldWidths_getD_eq_zero_iff ((k - 128) % 64) (Nat.mod_lt _ (by decide))
  unfold fieldWidth
  split
  · rw [hglobal]; omega
  · split
    · split
      · next w hw => rw [hw, Option.getD_some] at hlayer; simp only [reduceCtorEq, false_iff]; omega
      · next hw =>
        have h0 : layerFieldWidths[(k - 128) % 64]?.getD 0 = 0 := by
          cases e : layerFieldWidths[(k - 128) % 64]? with
          | none => rfl
          | some w =>
            cases w with
            | zero => rfl
            | succ w => exact absurd e (hw w)
        have := hlayer.1 h0
        simp only [true_iff]; omega
    · simp only [true_iff]; omega

theorem reg2Word_eq_none_iff (s : State) (a : Nat) : s.reg2Word a = none ↔ fieldWidth (a / 2) = none := by
  unfold State.reg2Word
  split <;> simp_all

theorem reg2Write_missing (s : State) {a : Nat} (h : fieldWidth (a / 2) = none) (v : Word) :
    reg2Write s a v = s.logRegister .reg2 a true := by simp only [reg2Write, h]

theorem reg2Write_diag (s : State) {a : Nat} (h : fieldWidth (a / 2) ≠ none) (v : Word) :
    (reg2Write s a v).diag = s.diag := by
  obtain ⟨w, hw⟩ := Option.ne_none_iff_exists'.1 h
  simp only [reg2Write, hw]
  rfl

/-- A word read of an offset that holds a register changes nothing. -/
theorem memRead16_register_state {s : State} {r : Region} (h : s.memOf r = none) {a : Nat} (ha : a % 2 = 0)
    (hw : s.regWord r a ≠ none) : (memRead16 s r a).1 = s := by
  obtain ⟨w, hw⟩ := Option.ne_none_iff_exists'.1 hw
  rw [memRead16_register h ha hw]

/-! ### The statement -/

/-- Two records logged one after the other are the two appended. -/
theorem logIllegal_logIllegal (s : State) (r : Region) (a b w : Nat) (wr : Bool) :
    (s.logIllegal r a w wr).logIllegal r b w wr =
      { s with diag := s.diag ++ [.illegalAccess r a w wr, .illegalAccess r b w wr] } := by
  simp [State.logIllegal, State.log]

/-- Settles O27: an access at an odd offset, and a byte of a register region, are illegal by the first test each makes;
at an even offset a word access logs exactly where `reg1Word` or `fieldWidth` names no register. -/
theorem accessErrorsOnlyLog : Obligations.AccessErrorsOnlyLog := by
  unfold Obligations.AccessErrorsOnlyLog
  refine ⟨fun s r a => ⟨fun hr => ?_, fun ha => ?_⟩, fun s a ha => ⟨fun hn => ?_, fun hy => ?_, fun hy v => ?_,
    fun hn => ?_, fun hy => ?_⟩⟩
  · have h := (s.memOf_eq_none_iff r).2 hr
    exact ⟨memRead8_register h a, memWrite8_register h a⟩
  · rw [← logIllegal_logIllegal, ← logIllegal_logIllegal]
    exact ⟨memRead16_odd s r ha, memWrite16_odd s r ha, memRead32_odd s r ha, memWrite32_odd s r ha⟩
  · have hw : a ∉ [0x00, 0x02, 0x04, 0x06, 0x08, 0x0A] := fun h => hn (by simp_all)
    refine ⟨memRead16_missing rfl ha ((reg1Word_eq_none_iff s a).2 hn), fun v => ?_⟩
    rw [memWrite16_reg1 s ha, reg1Write_missing s hw]
    rfl
  · exact memRead16_register_state rfl ha fun h => (reg1Word_eq_none_iff s a).1 h hy
  · rw [memWrite16_reg1 s ha, reg1Write_diag s hy]
  · have hf := (fieldWidth_eq_none_iff (a / 2)).2 hn
    refine ⟨memRead16_missing rfl ha ((reg2Word_eq_none_iff s a).2 hf), fun v => ?_⟩
    rw [memWrite16_reg2 s ha, reg2Write_missing s hf]
    rfl
  · have hf : fieldWidth (a / 2) ≠ none := fun h => hy ((fieldWidth_eq_none_iff (a / 2)).1 h)
    refine ⟨memRead16_register_state rfl ha fun h => hf ((reg2Word_eq_none_iff s a).1 h), fun v => ?_⟩
    rw [memWrite16_reg2 s ha, reg2Write_diag s hf]

end Sys2Proof.Machine
end

section
/-! Bus reads and dumps: what they change, and what they hand back (20_memory.md rules R86, R91, R99). -/

namespace Sys2Proof.Machine

/-! ### Bus reads -/

/-- A byte read appends records and changes nothing else. -/
theorem memRead8_diag (s : State) (r : Region) (a : Nat) :
    ∃ records, (memRead8 s r a).1 = { s with diag := s.diag ++ records } := by
  cases h : s.memOf r with
  | some id => exact ⟨[], by rw [memRead8_memory h, List.append_nil]⟩
  | none => exact ⟨_, by rw [memRead8_register h]; rfl⟩

/-- A long read appends the records of its two word reads and changes nothing else. -/
theorem memRead32_diag (s : State) (r : Region) (a : Nat) :
    ∃ records, (memRead32 s r a).1 = { s with diag := s.diag ++ records } := by
  obtain ⟨hi, hhi⟩ := memRead16_diag s r a
  obtain ⟨lo, hlo⟩ := memRead16_diag (memRead16 s r a).1 r (a + 2)
  refine ⟨hi ++ lo, hlo.trans ?_⟩
  rw [hhi, ← List.append_assoc]

/-- A bus read appends records, hands back a value and changes nothing else. -/
theorem busRead_eq (s : State) (r : Region) (a : Nat) (w : Width) :
    ∃ records x, busRead s r a w = { s with diag := s.diag ++ records, result := x } := by
  cases w with
  | byte => obtain ⟨records, h⟩ := memRead8_diag s r a; exact ⟨records, _, by rw [busRead, h]⟩
  | word => obtain ⟨records, h⟩ := memRead16_diag s r a; exact ⟨records, _, by rw [busRead, h]⟩
  | long => obtain ⟨records, h⟩ := memRead32_diag s r a; exact ⟨records, _, by rw [busRead, h]⟩

/-! ### Dumps -/

/-- The dump of a register region is the bytes its word reads give. -/
theorem dumpRegisters_eq {s : State} {r : Region} (h : s.memOf r = none) (n : Nat) :
    s.dumpRegisters r n = (List.range n).flatMap fun k => bytesOfWord (memRead16 s r (2 * k)).2 := by
  refine flatMap_congr_mem fun k _ => ?_
  rw [memRead16_register_value h (Nat.mul_mod_right 2 k)]
  rfl

/-! ### The statement -/

/-- Settles O30: a read of any width answers the state with records appended; what it hands back and the bytes of a
memory are the definitions', and the words of a register region are those word reads give. -/
theorem readsChangeNothingButTheLog : Obligations.ReadsChangeNothingButTheLog := by
  unfold Obligations.ReadsChangeNothingButTheLog
  refine ⟨fun s r a w => ?_, fun s r a => ⟨⟨rfl, rfl⟩, ⟨rfl, rfl⟩, rfl, rfl⟩,
    fun s => ⟨fun r => rfl, rfl, rfl, rfl, rfl, ?_⟩⟩
  · obtain ⟨records, x, h⟩ := busRead_eq s r a w
    rw [h]
    exact ⟨rfl, List.prefix_append _ _⟩
  · rintro r n (⟨rfl, rfl⟩ | ⟨rfl, rfl⟩)
    · exact congrArg StepResult.bytes (dumpRegisters_eq (r := .reg1) rfl 12)
    · exact congrArg StepResult.bytes (dumpRegisters_eq (r := .reg2) rfl 512)

end Sys2Proof.Machine
end

section
/-! VRAM1, VRAM2 and CRAM: no input but a bus write and a hard reset changes them (20_memory.md rule R80, 10_state.md
rule R34, 44_background.md rule R385). -/

namespace Sys2Proof.Machine

/-- From one state to another the bytes of VRAM1, VRAM2 and CRAM are kept. -/
def State.KeepsBusMemories (s t : State) : Prop :=
  ∀ id, id = .vram1 ∨ id = .vram2 ∨ id = .cram → ∀ a, t.mem.read8 id a = s.mem.read8 id a

theorem State.KeepsBusMemories.of_eq {s t : State} (h : t.mem = s.mem) : s.KeepsBusMemories t := fun _ _ _ => by rw [h]

theorem State.KeepsBusMemories.refl (s : State) : s.KeepsBusMemories s := .of_eq rfl

theorem State.KeepsBusMemories.trans {s t u : State} (h : s.KeepsBusMemories t) (k : t.KeepsBusMemories u) :
    s.KeepsBusMemories u := fun id hid a => (k id hid a).trans (h id hid a)

theorem ne_fbOf {id : MemId} (h : id = .vram1 ∨ id = .vram2 ∨ id = .cram) (b : Bool) : id ≠ fbOf b := by
  rcases h with rfl | rfl | rfl <;> cases b <;> decide

/-- Word writes to a framebuffer keep the three memories: the one way a command or an erase writes. -/
theorem State.KeepsBusMemories.of_writeWords {s t : State} (b : Bool) (ws : List (Nat × Word))
    (h : t.mem = s.mem.writeWords (fbOf b) ws) : s.KeepsBusMemories t := fun id hid a => by
  rw [h, Arena.writeWords_read8_other (ne_fbOf hid b)]

/-! ### Bus reads and taking an input -/

theorem takeInput_mem (s : State) : s.takeInput.mem = s.mem := by
  unfold State.takeInput
  split
  · rfl
  · rfl

theorem busRead_mem (s : State) (r : Region) (a : Nat) (w : Width) : (busRead s r a w).mem = s.mem := by
  obtain ⟨records, x, h⟩ := busRead_eq s r a w
  rw [h]

/-! ### Commands -/

theorem keepsBusMemories_exec {s t : State} {i : Instr} (e : exec i s = .next t) : s.KeepsBusMemories t := by
  rcases exec_cases e with ⟨_, _, ws, rfl, -⟩ | ⟨_, rfl⟩
  · exact .of_writeWords s.fbc.drawIndex ws rfl
  · exact .of_eq rfl

theorem keepsBusMemories_runCommand {s t : State} {c : Command} (e : runCommand c s = .next t) :
    s.KeepsBusMemories t := by
  obtain ⟨u, hop, hjump⟩ := andThen_eq_next.1 e
  have hu := keepsBusMemories_exec hop
  split at hjump
  · exact eq_of_next hjump ▸ hu
  · exact hu.trans (keepsBusMemories_exec hjump)

theorem keepGrant_mem (s : State) (n : Nat) : (s.keepGrant n).mem = s.mem := by
  cases n with
  | zero => rfl
  | succ n => rfl

theorem keepsBusMemories_processCommands {s t : State} {n : Nat} (e : processCommands n s = .next t) :
    s.KeepsBusMemories t := by
  cases n with
  | zero => exact eq_of_next e ▸ .refl s
  | succ n =>
    rw [processCommands] at e
    split at e
    · exact .trans (.of_eq (keepGrant_mem s n)) (keepsBusMemories_runCommand e)
    · exact eq_of_next e ▸ .refl s

/-! ### Erase and swap -/

theorem keepsBusMemories_eraseDisplay (s : State) : s.KeepsBusMemories s.eraseDisplay :=
  .of_writeWords (!s.fbc.drawIndex) _ (Arena.fillPixels_eq ..)

theorem keepsBusMemories_swap {s t : State} (e : swap s = .next t) : s.KeepsBusMemories t := by
  rw [(swap_eq_next.1 e).2, restartIfContinuous_eq, serveManualErase_eq]
  intro id hid a
  show (if s.fbc.manualErase then s.eraseDisplay.mem else s.mem).read8 id a = s.mem.read8 id a
  split
  · exact keepsBusMemories_eraseDisplay s id hid a
  · rfl

theorem keepsBusMemories_enterHVBlankOut {s t : State} (e : enterHVBlankOut s = .next t) : s.KeepsBusMemories t := by
  unfold enterHVBlankOut at e
  split at e
  · exact keepsBusMemories_swap (s := { s with fbc := { s.fbc with manualSwap := false } }) e
  · exact eq_of_next e ▸ .refl s

theorem keepsBusMemories_eraseIfConfigured {s t : State} (e : eraseIfConfigured s = .next t) :
    s.KeepsBusMemories t := by
  unfold eraseIfConfigured at e
  split at e
  · exact (eraseActive_eq_next.1 e).2 ▸ keepsBusMemories_eraseDisplay s
  · exact eq_of_next e ▸ .refl s

/-! ### Phase events -/

theorem renderScanline_mem {s t : State} {y : Nat} (e : renderScanline s y = .next t) : t.mem = s.mem := by
  rcases renderScanline_eq_next.1 e with ⟨-, rfl⟩ | ⟨-, -, -, rfl⟩
  · rfl
  · rfl

theorem enterHActive_mem {s t : State} (e : enterHActive s = .next t) : t.mem = s.mem := by
  unfold enterHActive at e
  split at e
  · rw [renderScanline_mem e, frameInit_if]
  · rw [eq_of_next e]

theorem enterHRightBorder_mem (s : State) : (enterHRightBorder s).mem = s.mem := by
  unfold enterHRightBorder
  split
  · rfl
  · rfl

theorem enterVTopBorder_mem (s : State) : (enterVTopBorder s).mem = s.mem := by
  unfold enterVTopBorder
  split
  · rfl
  · rfl

theorem peripheralCheck_mem (s : State) : (peripheralCheck s).mem = s.mem := by
  unfold peripheralCheck
  split
  · rfl
  · rfl

theorem keepsBusMemories_enterVBottomBorder {s t : State} (e : enterVBottomBorder s = .next t) :
    s.KeepsBusMemories t := by
  obtain ⟨u, herase, hframe⟩ := andThen_eq_next.1 e
  rw [eq_of_next hframe]
  exact keepsBusMemories_eraseIfConfigured (s := s.trigger .vblankStart) (t := u) herase

theorem keepsBusMemories_verticalTransition {s t : State} (e : verticalTransition s = .next t) :
    s.KeepsBusMemories t := by
  rcases verticalTransition_cases e with rfl | h | rfl | rfl | rfl | rfl
  · exact .refl _
  · exact keepsBusMemories_enterVBottomBorder (s := s.inVPhase .bottomBorder) h
  · exact .of_eq rfl
  · exact .of_eq (enterVTopBorder_mem _)
  · exact .of_eq rfl
  · exact .of_eq rfl

theorem keepsBusMemories_enterHLastDot {s t : State} (e : enterHLastDot s = .next t) : s.KeepsBusMemories t := by
  obtain ⟨u, hv, hp⟩ := andThen_eq_next.1 e
  rw [eq_of_next hp]
  exact (keepsBusMemories_verticalTransition (s := s.countLine) hv).trans (.of_eq (peripheralCheck_mem u))

theorem keepsBusMemories_enterHPhase {s t : State} {h : HPhase} (e : enterHPhase h s = .next t) :
    s.KeepsBusMemories t := by
  cases h with
  | active => exact .of_eq (enterHActive_mem e)
  | rightBorder => exact eq_of_next e ▸ .of_eq (enterHRightBorder_mem s)
  | sync => exact eq_of_next e ▸ .refl s
  | vblankOut => exact keepsBusMemories_enterHVBlankOut e
  | leftBorder => exact eq_of_next e ▸ .refl s
  | lastDot => exact keepsBusMemories_enterHLastDot e

theorem keepsBusMemories_phaseEvent {s t : State} (e : phaseEvent s = .next t) : s.KeepsBusMemories t := by
  obtain ⟨u, he, rfl⟩ := phaseEvent_eq_next.1 e
  exact keepsBusMemories_enterHPhase (s := s.nextPhase) (t := u) he

/-! ### Resets and steps -/

theorem logicReset_mem {s t : State} (e : logicReset s = .next t) : t.mem = s.mem := by
  rw [logicReset_eq] at e
  rw [eq_of_next e]
  rfl

theorem keepsBusMemories_serve {s t : State} {i : Input} (e : serve i s = .next t)
    (hw : ∀ (r : Region) (a : Nat) (w : Width) (v : Long), i ≠ .busWrite r a w v) (hr : i ≠ .hardReset) :
    s.KeepsBusMemories t := by
  cases i with
  | busRead r a w => exact eq_of_next e ▸ .of_eq (busRead_mem s r a w)
  | busWrite r a w v => exact absurd rfl (hw r a w v)
  | phaseEvent hd => exact keepsBusMemories_phaseEvent (serve_phaseEvent s hd ▸ e)
  | commands n => exact keepsBusMemories_processCommands e
  | hardReset => exact absurd rfl hr
  | softReset => exact .of_eq (logicReset_mem e)
  | dump r => exact eq_of_next e ▸ .of_eq rfl

/-- Settles O56: taking an input keeps the memories, and each input but the two excluded writes at most a framebuffer:
a command its draw buffer, an erase the display buffer. -/
theorem onlyTheBusWritesTheMemories : Obligations.OnlyTheBusWritesTheMemories := by
  unfold Obligations.OnlyTheBusWritesTheMemories
  exact fun s _ e hw hr =>
    State.KeepsBusMemories.trans (.of_eq (takeInput_mem s)) (keepsBusMemories_serve e hw hr)

end Sys2Proof.Machine
end

section
/-! The encoding: a command read back from its bytes, the bits no decoder reads, and words written out
(30_encoding.md rules R111 to R123). -/

namespace Sys2Proof

/-! ### Reading a command back -/

/-- A well-formed command is the end of the list, or another operation and a well-formed jump mode. -/
theorem Command.wellFormed_cases {c : Command} (h : c.wellFormed = true) :
    c = ⟨.endList, none⟩ ∨
      ∃ op j, c = ⟨op, some j⟩ ∧ op.isJump = false ∧ op ≠ .endList ∧ j.isJump = true ∧ j.wellFormed = true := by
  obtain ⟨op, jump⟩ := c
  cases jump with
  | none =>
    simp only [Command.wellFormed, Bool.and_eq_true, beq_iff_eq] at h
    exact .inl (by rw [h.2])
  | some j =>
    simp only [Command.wellFormed, Bool.and_eq_true, Bool.not_eq_true', bne_iff_ne] at h
    obtain ⟨⟨hop, -⟩, ⟨hj, hw⟩, hne⟩ := h
    exact .inr ⟨op, j, rfl, hop, hne, hj, hw⟩

theorem decode_encode {c : Command} (h : c.wellFormed = true) : decode (encode c) = c := by
  rcases Command.wellFormed_cases h with rfl | ⟨op, j, rfl, hop, hne, hj, hw⟩
  · rfl
  · obtain ⟨hend, hjump, hlink⟩ := encodeOp_jumpFields op (jumpField j) (linkField j) hne
    simp only [encode, decode, hend, decodeOp_encodeOp op _ _ hop, decodeJumpMode_of_fields j _ hj hw hjump hlink,
      Bool.false_eq_true, if_false]

/-- Settles O1: the sixteen words are read back from their bytes whatever follows, and the words of a well-formed
command decode to it, its operation and its jump mode each from fields the other does not use. -/
theorem decodeOfEncodedBytesIsTheCommand : Obligations.DecodeOfEncodedBytesIsTheCommand := by
  unfold Obligations.DecodeOfEncodedBytesIsTheCommand
  intro c rest h
  rw [decodeBytes, tableOfBytes_bytes]
  dsimp only
  rw [decode_encode h]

/-- Settles O5, by evaluating the decoder on the words. -/
theorem listedWordsDecode : Obligations.ListedWordsDecode := by
  unfold Obligations.ListedWordsDecode
  decide

/-! ### Ignored bits -/

/-- A field is kept when the bits flipped lie outside it. -/
theorem extractLsb'_xor_masked (w m mask : Word) {lo n : Nat} (h : mask.extractLsb' lo n = 0#n) :
    (w ^^^ (m &&& mask)).extractLsb' lo n = w.extractLsb' lo n := by
  rw [BitVec.extractLsb'_xor, BitVec.extractLsb'_and, h, BitVec.and_zero, BitVec.xor_zero]

/-- A bit is kept when it is not among those flipped. -/
theorem getLsbD_xor_masked (w m mask : Word) {i : Nat} (h : mask.getLsbD i = false) :
    (w ^^^ (m &&& mask)).getLsbD i = w.getLsbD i := by
  rw [BitVec.getLsbD_xor, BitVec.getLsbD_and, h, Bool.and_false, Bool.xor_false]

/-- A vertex is the low 13 bits of its words. -/
theorem vertexOf_xor_ignored (x y mx my : Word) :
    vertexOf (x ^^^ (mx &&& 0xE000)) (y ^^^ (my &&& 0xE000)) = vertexOf x y := by
  rw [vertexOf, extractLsb'_xor_masked _ _ _ (by decide), extractLsb'_xor_masked _ _ _ (by decide)]
  rfl

/-- A clip corner is the low 10 and 9 bits of its words. -/
theorem clipCornerOf_xor_ignored (x y mx my : Word) :
    clipCornerOf (x ^^^ (mx &&& 0xE000)) (y ^^^ (my &&& 0xE000)) = clipCornerOf x y := by
  rw [clipCornerOf, extractLsb'_xor_masked _ _ _ (by decide), extractLsb'_xor_masked _ _ _ (by decide)]
  rfl

section
variable (ctrl m : Word)

theorem ctrlEnd_xor_reserved : ctrlEnd (ctrl ^^^ (m &&& 0x00C0)) = ctrlEnd ctrl :=
  getLsbD_xor_masked _ _ _ (by decide)

theorem ctrlSkip_xor_reserved : ctrlSkip (ctrl ^^^ (m &&& 0x00C0)) = ctrlSkip ctrl :=
  getLsbD_xor_masked _ _ _ (by decide)

theorem ctrlVflip_xor_reserved : ctrlVflip (ctrl ^^^ (m &&& 0x00C0)) = ctrlVflip ctrl :=
  getLsbD_xor_masked _ _ _ (by decide)

theorem ctrlHflip_xor_reserved : ctrlHflip (ctrl ^^^ (m &&& 0x00C0)) = ctrlHflip ctrl :=
  getLsbD_xor_masked _ _ _ (by decide)

theorem ctrlJump_xor_reserved : ctrlJump (ctrl ^^^ (m &&& 0x00C0)) = ctrlJump ctrl :=
  extractLsb'_xor_masked _ _ _ (by decide)

theorem ctrlZoom_xor_reserved : ctrlZoom (ctrl ^^^ (m &&& 0x00C0)) = ctrlZoom ctrl :=
  extractLsb'_xor_masked _ _ _ (by decide)

theorem ctrlOpcode_xor_reserved : ctrlOpcode (ctrl ^^^ (m &&& 0x00C0)) = ctrlOpcode ctrl :=
  extractLsb'_xor_masked _ _ _ (by decide)
end

/-- The decoder reads none of the ignored bits of a table, nor its last word. -/
theorem decode_xor_ignored (t : CmdTable) (m mxa mya mxb myb mxc myc mxd myd w : Word) :
    decode
      { t with
        ctrl := t.ctrl ^^^ (m &&& 0x00C0)
        xa := t.xa ^^^ (mxa &&& 0xE000), ya := t.ya ^^^ (mya &&& 0xE000)
        xb := t.xb ^^^ (mxb &&& 0xE000), yb := t.yb ^^^ (myb &&& 0xE000)
        xc := t.xc ^^^ (mxc &&& 0xE000), yc := t.yc ^^^ (myc &&& 0xE000)
        xd := t.xd ^^^ (mxd &&& 0xE000), yd := t.yd ^^^ (myd &&& 0xE000)
        unused := w } = decode t := by
  simp only [decode, decodeOp, decodeOpcode, decodeJumpMode, CmdTable.drawOps, CmdTable.texOps, CmdTable.vertexA,
    CmdTable.vertexB, CmdTable.vertexC, CmdTable.vertexD, ctrlEnd_xor_reserved, ctrlSkip_xor_reserved,
    ctrlVflip_xor_reserved, ctrlHflip_xor_reserved, ctrlJump_xor_reserved, ctrlZoom_xor_reserved,
    ctrlOpcode_xor_reserved, vertexOf_xor_ignored, clipCornerOf_xor_ignored]

namespace Machine

/-- Two PMOD words draw alike: they agree in every bit the drawing reads, CLIP, CMOD, SPD, CM and GOUR
(30_encoding.md rule R117). -/
structure DrawAlike (p q : Word) : Prop where
  clip : pmodClip q = pmodClip p
  outside : pmodOutside q = pmodOutside p
  spd : pmodSpd q = pmodSpd p
  cm : pmodCM q = pmodCM p
  gour : pmodGour q = pmodGour p

/-- The ignored bits 15:11, 8:7 and 1:0 of PMOD. -/
theorem DrawAlike.xor_ignored (p m : Word) : DrawAlike p (p ^^^ (m &&& 0xF983)) where
  clip := getLsbD_xor_masked _ _ _ (by decide)
  outside := getLsbD_xor_masked _ _ _ (by decide)
  spd := getLsbD_xor_masked _ _ _ (by decide)
  cm := congrArg BitVec.toNat (extractLsb'_xor_masked _ _ _ (by decide))
  gour := getLsbD_xor_masked _ _ _ (by decide)

/-- Bits 14:13, 11 and 7 are among the ignored ones. -/
theorem DrawAlike.xor_unlogged (p m : Word) : DrawAlike p (p ^^^ (m &&& 0x6880)) := by
  have h : m &&& 0x6880 = (m &&& 0x6880) &&& 0xF983 := by rw [BitVec.and_assoc]; rfl
  rw [h]
  exact .xor_ignored p _

/-- Bits 14:13, 11 and 7 are none of those the prologue reports. -/
theorem pmodUnadmitted_xor_unlogged (p m : Word) : pmodUnadmitted (p ^^^ (m &&& 0x6880)) = pmodUnadmitted p := by
  simp only [pmodUnadmitted]
  rw [getLsbD_xor_masked _ _ _ (by decide), getLsbD_xor_masked _ _ _ (by decide),
    getLsbD_xor_masked _ _ _ (by decide), extractLsb'_xor_masked _ _ _ (by decide)]

section
variable {p q : Word} (h : DrawAlike p q)
include h

theorem DrawAlike.visible_eq (c : RenderContext) : c.visible q = c.visible p := by
  funext x y
  rw [RenderContext.visible, RenderContext.visible, h.clip, h.outside]

theorem DrawAlike.rejects_eq (c : RenderContext) (ps : List Coord) : c.rejects q ps = c.rejects p ps := by
  rw [RenderContext.rejects, RenderContext.rejects, h.clip, h.outside]

theorem DrawAlike.transparent_eq (x : Texel) : x.transparent q = x.transparent p := by
  rw [Texel.transparent, Texel.transparent, h.spd]

theorem DrawAlike.writesOf_eq (s : State) (ps : List Plot) : s.writesOf q ps = s.writesOf p ps := by
  rw [State.writesOf, State.writesOf, h.visible_eq]
end

section
variable {d : DrawOps} {p : Word} (h : DrawAlike d.pmod p)
include h

theorem shade_withPmod (m : Arena) (row n k dmaj : Nat) (v : Word) :
    shade m { d with pmod := p } row n k dmaj v = shade m d row n k dmaj v := by
  rw [shade, shade, h.gour]
  rfl

theorem textureOf_withPmod (t : TexOps) : textureOf { d with pmod := p } t = textureOf d t := by
  rw [textureOf, textureOf, h.cm]

theorem linePlots_withPmod (m : Arena) (row n : Nat) (c1 c2 : Coord) :
    linePlots m { d with pmod := p } row n c1 c2 = linePlots m d row n c1 c2 := by
  simp only [linePlots, shade_withPmod h]

theorem texRowPlotsFrom_withPmod (m : Arena) (x : Texture) (row n : Nat) (v : Int) (l : List TexLineStepper) :
    ∀ (kept : Option Texel) (k : Nat),
      texRowPlotsFrom m { d with pmod := p } x row n v kept k l = texRowPlotsFrom m d x row n v kept k l := by
  induction l with
  | nil => intros; rfl
  | cons s rest ih => intro kept k; simp only [texRowPlotsFrom, h.transparent_eq, shade_withPmod h, ih]

theorem texturedPlots_withPmod (t : TexOps) (q : Corners) (s : State) :
    texturedPlots { d with pmod := p } t q s = texturedPlots d t q s := by
  simp only [texturedPlots, texQuadPlots, texRowPlots, h.rejects_eq, textureOf_withPmod h,
    texRowPlotsFrom_withPmod h]

theorem quadPlots_withPmod (m : Arena) (q : Corners) : quadPlots m { d with pmod := p } q = quadPlots m d q := by
  simp only [quadPlots, linePlots_withPmod h]

theorem polyPlots_withPmod (q : Corners) (s : State) : polyPlots { d with pmod := p } q s = polyPlots d q s := by
  simp only [polyPlots, h.rejects_eq, quadPlots_withPmod h]

theorem polylinePlots_withPmod (q : Corners) (s : State) :
    polylinePlots { d with pmod := p } q s = polylinePlots d q s := by
  simp only [polylinePlots, h.rejects_eq, linePlots_withPmod h]

theorem singleLinePlots_withPmod (a b : Coord) (s : State) :
    singleLinePlots { d with pmod := p } a b s = singleLinePlots d a b s := by
  simp only [singleLinePlots, h.rejects_eq, linePlots_withPmod h]
end

/-- Two outcomes of one command under two PMOD words differ in the records alone, and have as many of them when the
prologue reports both words or neither. -/
def DiffersInRecords (p q : Word) (u : State) (o : Host.Outcome State Fault Refusal) : Prop :=
  ∃ v, o = .next v ∧ v = { u with diag := v.diag } ∧
    (pmodUnadmitted q = pmodUnadmitted p → v.diag.length = u.diag.length)

theorem prologueRecords_length {p q : Word} (h : pmodUnadmitted q = pmodUnadmitted p) (s : State) :
    (prologueRecords s q).length = (prologueRecords s p).length := by
  rw [prologueRecords, prologueRecords, h]
  split <;> rfl

theorem drawSolid_differsInRecords {s u : State} {p q : Word} {ps : List Plot} (h : DrawAlike p q)
    (e : drawSolid p ps s = .next u) : DiffersInRecords p q u (drawSolid q ps s) := by
  have ha := (guardSprite_eq_next.1 e).1
  rw [drawSolid_admitted ha, Host.Outcome.next.injEq] at e
  rw [DiffersInRecords, drawSolid_admitted ha, ← e]
  refine ⟨_, rfl, ?_, fun hu => ?_⟩
  · rw [h.writesOf_eq]
  · simp only [List.length_append, prologueRecords_length hu]

theorem drawTextured_differsInRecords {s u : State} {d : DrawOps} {q : Word} {t : TexOps} {c : Corners}
    (h : DrawAlike d.pmod q) (e : drawTextured d t c s = .next u) :
    DiffersInRecords d.pmod q u (drawTextured { d with pmod := q } t c s) := by
  have ha := (guardSprite_eq_next.1 e).1
  rw [drawTextured_admitted ha, Host.Outcome.next.injEq] at e
  rw [DiffersInRecords, drawTextured_admitted ha, ← e]
  refine ⟨_, rfl, ?_, fun hu => ?_⟩
  · rw [h.cm, h.writesOf_eq, texturedPlots_withPmod h]
    split <;> rfl
  · rw [h.cm]
    split
    · simp only [List.length_append, prologueRecords_length hu, List.length_cons, List.length_nil]
    · simp only [List.length_append, prologueRecords_length hu]

/-- A command under a PMOD word that draws alike does the same but for its records. -/
theorem exec_withPmod_differsInRecords {i : Instr} {s u : State} {q : Word} (h : DrawAlike (pmodOf i) q)
    (e : exec i s = .next u) : DiffersInRecords (pmodOf i) q u (exec (withPmod q i) s) := by
  have unchanged (hi : withPmod q i = i) : DiffersInRecords (pmodOf i) q u (exec (withPmod q i) s) :=
    ⟨u, hi.symm ▸ e, rfl, fun _ => rfl⟩
  cases i with
  | nspr d t va => exact drawTextured_differsInRecords h e
  | sspr d t zp va vb vc => exact drawTextured_differsInRecords h e
  | dspr d t va vb vc vd => exact drawTextured_differsInRecords h e
  | poly d va vb vc vd =>
    show DiffersInRecords _ _ _ (drawSolid q (polyPlots { d with pmod := q } _ s) s)
    rw [polyPlots_withPmod h]
    exact drawSolid_differsInRecords h e
  | plin d va vb vc vd =>
    show DiffersInRecords _ _ _ (drawSolid q (polylinePlots { d with pmod := q } _ s) s)
    rw [polylinePlots_withPmod h]
    exact drawSolid_differsInRecords h e
  | line d va vb =>
    show DiffersInRecords _ _ _ (drawSolid q (singleLinePlots { d with pmod := q } _ _ s) s)
    rw [singleLinePlots_withPmod h]
    exact drawSolid_differsInRecords h e
  | _ => exact unchanged rfl

/-- Settles O4: no field the decoder takes from a table covers an ignored bit; and of PMOD the drawing reads only CLIP,
CMOD, SPD, CM and GOUR, so that a draw command under a word with the same five makes the same plots. -/
theorem ignoredBitsChangeNothing : Obligations.IgnoredBitsChangeNothing := by
  unfold Obligations.IgnoredBitsChangeNothing
  refine ⟨decode_xor_ignored, fun i m s u e => ⟨?_, ?_⟩⟩
  · obtain ⟨v, hv, hrest, -⟩ := exec_withPmod_differsInRecords (.xor_ignored (pmodOf i) m) e
    exact ⟨v, hv, hrest⟩
  · obtain ⟨v, hv, hrest, hlen⟩ := exec_withPmod_differsInRecords (.xor_unlogged (pmodOf i) m) e
    exact ⟨v, hv, hrest, hlen (pmodUnadmitted_xor_unlogged (pmodOf i) m)⟩

end Machine
end Sys2Proof
end

section
/-! The registers of the sprite processor: what each write sets and each read gives, and the plot trigger
(30_encoding.md rules R140 to R142). -/

namespace Sys2Proof.Machine

/-! ### Reads -/

/-- A word read of REG1 gives the register's word (30_encoding.md rule R140). -/
theorem memRead16_reg1 {s : State} {a : Nat} (ha : a % 2 = 0) {w : Word} (h : s.reg1Word a = some w) :
    (memRead16 s .reg1 a).2 = w := by rw [memRead16_register (r := .reg1) rfl ha h]

/-- The number of a concatenation, its high part weighted by the low part's width. -/
theorem toNat_append_eq {m n : Nat} (x : BitVec m) (y : BitVec n) : (x ++ y).toNat = 2 ^ n * x.toNat + y.toNat := by
  rw [BitVec.toNat_append, Nat.shiftLeft_eq, Nat.mul_comm, Nat.two_pow_add_eq_or_of_lt y.isLt]

/-! ### The frame control register -/

/-- FBCR sets the latch its two bits name and clears none (30_encoding.md rule R141). -/
theorem FbControl.request_eq (f : FbControl) (v : Word) :
    f.request v =
      { f with
        manualSwap := f.manualSwap || (v.getLsbD 1 && v.getLsbD 0)
        manualErase := f.manualErase || (v.getLsbD 1 && !v.getLsbD 0) } := by
  unfold FbControl.request
  cases v.getLsbD 1 with
  | false => simp
  | true => cases v.getLsbD 0 <;> simp

theorem writeFbcr_eq (s : State) (v : Word) :
    writeFbcr s v =
      { s with
        reg1 := { s.reg1 with fbSwapMode := v.extractLsb' 1 1, fbSwapTrigger := v.extractLsb' 0 1 }
        fbc :=
          { s.fbc with
            manualSwap := s.fbc.manualSwap || (v.getLsbD 1 && v.getLsbD 0)
            manualErase := s.fbc.manualErase || (v.getLsbD 1 && !v.getLsbD 0) } } := by
  rw [writeFbcr, FbControl.request_eq]

/-! ### The plot trigger -/

theorem writePtmr_of_eq_one {v : Word} (h : v.extractLsb' 0 2 = 1#2) (s : State) :
    writePtmr s v = beginFrame (s.withReg1 { s.reg1 with plotTrigger := 1 }) := by
  rw [writePtmr, if_pos h, h]
  rfl

theorem writePtmr_of_ne_one {v : Word} (h : v.extractLsb' 0 2 ≠ 1#2) (s : State) :
    writePtmr s v = s.withReg1 { s.reg1 with plotTrigger := v.extractLsb' 0 2 } := if_neg h

/-- Settles O25: the write runs `BeginFrame` on the state with the trigger stored, or stops there. -/
theorem plotTriggerBeginsAFrame : Obligations.PlotTriggerBeginsAFrame := by
  unfold Obligations.PlotTriggerBeginsAFrame
  exact fun s v => ⟨fun h => writePtmr_of_eq_one h s, fun h => writePtmr_of_ne_one h s⟩

/-! ### The statement -/

/-- Settles O29: each read gives the word `reg1Word` puts together, as a sum of its fields; each write is the named
write of its register, and only FBCR needs a split, over its two bits. -/
theorem spriteRegistersReadBack : Obligations.SpriteRegistersReadBack := by
  unfold Obligations.SpriteRegistersReadBack
  refine ⟨fun s => ?_, fun s v => ⟨rfl, writeFbcr_eq s v, rfl, rfl, rfl, ?_⟩⟩
  · rw [memRead16_reg1 (a := 0x00) rfl rfl, memRead16_reg1 (a := 0x02) rfl rfl, memRead16_reg1 (a := 0x04) rfl rfl,
      memRead16_reg1 (a := 0x06) rfl rfl, memRead16_reg1 (a := 0x08) rfl rfl, memRead16_reg1 (a := 0x0A) rfl rfl,
      memRead16_reg1 (a := 0x10) rfl rfl, memRead16_reg1 (a := 0x14) rfl rfl]
    simp only [toNat_append_eq, BitVec.toNat_ofNat, BitVec.extractLsb'_toNat, Nat.shiftRight_eq_div_pow]
    have haddr := s.ctx.cmdAddr.isLt
    exact ⟨by omega, by omega, by omega, trivial, by omega, by omega, by omega, by omega⟩
  · rintro a (rfl | rfl)
    · exact reg1Write_missing s (a := 0x10) (by decide) v
    · exact reg1Write_missing s (a := 0x14) (by decide) v

end Sys2Proof.Machine
end

section
/-! The words of the sprite framebuffer: their fields in each type, and the layer entry and the sprite dot they stand for
(30_encoding.md rule R126, 45_compositor.md rule R402). -/

namespace Sys2Proof.Machine

/-! ### Fields -/

/-- A bit field of a word as the remainder of a quotient. -/
theorem toNat_extractLsb'_eq {n : Nat} (v : BitVec n) (lo w : Nat) :
    (v.extractLsb' lo w).toNat = v.toNat / 2 ^ lo % 2 ^ w := by
  rw [BitVec.extractLsb'_toNat, Nat.shiftRight_eq_div_pow]

/-- A bit field that reaches the top of a word is a quotient. -/
theorem toNat_extractLsb'_top {n : Nat} (v : BitVec n) {lo w : Nat} (h : n = lo + w) :
    (v.extractLsb' lo w).toNat = v.toNat / 2 ^ lo := by
  subst h
  rw [toNat_extractLsb'_eq, Nat.mod_eq_of_lt (Nat.div_lt_of_lt_mul (by rw [← Nat.pow_add]; exact v.isLt))]

/-- The ratio of every type has at most three bits. -/
theorem spriteFields_cc_lt (sptype : Nat) (p : Word) : (spriteFields sptype p).cc < 8 := by
  have field (lo : Nat) {w : Nat} (hw : 2 ^ w ≤ 8) : (p.extractLsb' lo w).toNat < 8 :=
    Nat.lt_of_lt_of_le (p.extractLsb' lo w).isLt hw
  unfold spriteFields
  split <;> exact field _ (by decide)

/-- The normal shadow code: two below the power of the width of the dot colour, which is no width of 0. -/
theorem spriteFields_shadow_iff (sptype : Nat) (p : Word) :
    (spriteFields sptype p).dc = 2 ^ (spriteFields sptype p).dcWidth - 2 ↔
      (spriteFields sptype p).dc + 2 = 2 ^ (spriteFields sptype p).dcWidth := by
  have h : 2 ≤ 2 ^ (spriteFields sptype p).dcWidth := by
    unfold spriteFields
    split <;> norm_num
  omega

/-! ### Colours -/

theorem rgb555_toNat (w : Word) :
    (rgb555 w).r.toNat = w.toNat % 32 * 8 ∧ (rgb555 w).g.toNat = w.toNat / 32 % 32 * 8 ∧
      (rgb555 w).b.toNat = w.toNat / 1024 % 32 * 8 := by
  simp only [rgb555, channel5_toNat, toNat_extractLsb'_eq, Nat.pow_zero, Nat.div_one, Nat.reducePow, and_self]

/-! ### Layer entries -/

/-- Settles O50: a field of a type is a remainder of a quotient; a word is an RGB pixel or is read by its fields, as the
one test of the decoder says. -/
theorem spriteWordsDecodeByTheirType : Obligations.SpriteWordsDecodeByTheirType := by
  unfold Obligations.SpriteWordsDecodeByTheirType
  refine ⟨fun p => ?_, fun c m p => ⟨fun h => ?_, fun h => ?_⟩⟩
  · have h0 := toNat_extractLsb'_top p (lo := 14) (w := 2) rfl
    have h1 := toNat_extractLsb'_top p (lo := 13) (w := 3) rfl
    simp only [spriteFields, h0, h1, toNat_extractLsb'_eq, Nat.pow_zero, Nat.div_one, Nat.reducePow, and_self]
  · have hrgb : (c.spclmd && p.getLsbD 15) = true := by rw [h.1, h.2]; rfl
    obtain ⟨hr, hg, hb⟩ := rgb555_toNat p
    rw [spriteLayerDot, if_pos hrgb, spriteAttributes, if_pos hrgb]
    exact ⟨hr, hg, hb, rfl, rfl, rfl, rfl⟩
  · have hfields : ¬(c.spclmd && p.getLsbD 15) = true := by rwa [Bool.and_eq_true]
    rw [spriteLayerDot, if_neg hfields, spriteAttributes, if_neg hfields]
    refine ⟨rfl, rfl, ?_, rfl, ?_⟩
    · rw [BitVec.toNat_ofNat, Nat.mod_eq_of_lt (spriteFields_cc_lt c.sptype p)]
    · exact decide_eq_decide.2 (spriteFields_shadow_iff c.sptype p)

end Sys2Proof.Machine
end

section
/-! Rotated layers: what the parameter tables give, the coefficient of a dot, its parameter set and coordinates, and what
is shown outside the area (44_background.md rules R360 to R368; 30_encoding.md rules R135, R136). -/

namespace Sys2Proof.Machine

/-! ### Records -/

/-- The address of the table of a parameter set (44_background.md rule R360). -/
def Cfg2.rotTable (c : Cfg2) (P : ParamSet) : Nat := c.rpta + if P = .a then 0 else 0x80

/-- At frame initialisation a set holds the record of its table, the accumulators the record's start values. -/
theorem frameInitAcc_rot (c : Cfg2) (m : Arena) (a : Accumulators) (P : ParamSet) :
    (frameInitAcc c m a).rot P = rotFrameInit m (c.rotTable P) := by
  cases P with
  | a => rfl
  | b => rfl

/-! ### Coefficients -/

theorem coefficientOfLong_k (kmd : Nat) (e : Long) :
    (coefficientOfLong kmd e).k = (e.extractLsb' 0 24).toInt * if kmd = 3 then 256 else 1 := by
  rw [mul_ite, mul_one]
  rfl

theorem coefficientOfWord_k (kmd : Nat) (e : Word) :
    (coefficientOfWord kmd e).k = (e.extractLsb' 0 15).toInt * if kmd = 3 then 16384 else 64 := by
  rw [mul_ite]
  rfl

/-- The entry of a coefficient table at an address, of one word or two (30_encoding.md rule R136). -/
def coefficientAt (c : Cfg2) (m : Arena) (P : ParamSet) (id : MemId) (a : Nat) : Coefficient :=
  if c.kdbs P then coefficientOfWord (c.kmd P) (m.read16 id a) else coefficientOfLong (c.kmd P) (m.read32 id a)

/-- A coefficient is the entry at the dot's address, in CRAM or in a bank of VRAM2 that holds coefficients; any other
bank has none (44_background.md rule R363). -/
theorem fetchCoefficient_eq (c : Cfg2) (m : Arena) (r : RotAcc) (P : ParamSet) (xm : Nat) {a : Nat}
    (ha : (a : Int) = (c.ktbase P + coefficientNumber c r P xm * if c.kdbs P then 2 else 4) %
      (if c.crkte then 0x1000 else 0x80000)) :
    fetchCoefficient c m r P xm =
      if c.crkte = true ∨ c.rdbs / 4 ^ (a / 0x20000) % 4 = 1 then
        coefficientAt c m P (if c.crkte then .cram else .vram2) a
      else { transparent := true, k := 0 } := by
  cases h : c.crkte with
  | true =>
    rw [h, if_pos rfl] at ha
    have hn := congrArg Int.toNat ha
    rw [Int.toNat_natCast] at hn
    simp [fetchCoefficient, coefficientAt, Config.cramBytes, h, hn, -mul_ite]
  | false =>
    rw [h, if_neg Bool.false_ne_true] at ha
    have hn := congrArg Int.toNat ha
    rw [Int.toNat_natCast] at hn
    simp [fetchCoefficient, coefficientAt, coefficientBank, Config.vram2Bytes, h, hn, -mul_ite]

/-! ### Parameter sets -/

theorem paramSetOf_nbg0 (c : Cfg2) (m : Arena) (a : Accumulators) (w : Bool) (xm : Nat) :
    paramSetOf c m a .nbg0 w xm = .b := rfl

theorem paramSetOf_rbg0 (c : Cfg2) (m : Arena) (a : Accumulators) (w : Bool) (xm : Nat) :
    (c.rpmd = 0 → paramSetOf c m a .rbg0 w xm = .a) ∧
    (c.rpmd = 1 → paramSetOf c m a .rbg0 w xm = .b) ∧
    (c.rpmd = 2 →
      (paramSetOf c m a .rbg0 w xm = .b ↔
        c.kte .a = true ∧ (fetchCoefficient c m (a.rot .a) .a xm).transparent = true)) ∧
    (c.rpmd = 3 → (paramSetOf c m a .rbg0 w xm = .b ↔ w = true)) := by
  refine ⟨fun h => ?_, fun h => ?_, fun h => ?_, fun h => ?_⟩ <;>
    simp [paramSetOf, h, Cfg2.kte, Accumulators.rot]

/-! ### Coordinates -/

/-- The coordinates of a dot from its scales and its column (44_background.md rule R365). -/
def RotLine.coord (l : RotLine) (xm : Nat) (kx ky xp : Int) (t : Bool) : RotCoord :=
  { sx := (kx * (l.xsp + l.dXs * xm) / 65536 + xp) / 65536
    sy := (ky * (l.ysp + l.dYs * xm) / 65536 + l.yp) / 65536
    transparent := t }

/-- Without coefficients the record's scales hold. -/
theorem rotCoordAt_plain {c : Cfg2} {P : ParamSet} (h : c.kte P = false) (m : Arena) (a : Accumulators) (xm : Nat) :
    rotCoordAt c m a P xm =
      (rotLine (a.rot P)).coord xm (a.rot P).rp.kx (a.rot P).rp.ky (rotLine (a.rot P)).xp false := by
  simp [rotCoordAt, h, RotLine.coord, fixMul]

/-- A transparent coefficient changes no scale. -/
theorem rotCoordAt_transparent {c : Cfg2} {m : Arena} {a : Accumulators} {P : ParamSet} {xm : Nat} (h : c.kte P = true)
    (ht : (fetchCoefficient c m (a.rot P) P xm).transparent = true) :
    rotCoordAt c m a P xm =
      (rotLine (a.rot P)).coord xm (a.rot P).rp.kx (a.rot P).rp.ky (rotLine (a.rot P)).xp true := by
  simp [rotCoordAt, h, ht, RotLine.coord, fixMul]

/-- Any other coefficient replaces what KMD names: both scales, one of them, or the column. -/
theorem rotCoordAt_coefficient {c : Cfg2} {m : Arena} {a : Accumulators} {P : ParamSet} {xm : Nat} (h : c.kte P = true)
    (ht : (fetchCoefficient c m (a.rot P) P xm).transparent = false) :
    rotCoordAt c m a P xm =
      (rotLine (a.rot P)).coord xm
        (if c.kmd P = 0 ∨ c.kmd P = 1 then (fetchCoefficient c m (a.rot P) P xm).k else (a.rot P).rp.kx)
        (if c.kmd P = 0 ∨ c.kmd P = 2 then (fetchCoefficient c m (a.rot P) P xm).k else (a.rot P).rp.ky)
        (if c.kmd P = 3 then (fetchCoefficient c m (a.rot P) P xm).k else (rotLine (a.rot P)).xp) false := by
  simp [rotCoordAt, h, ht, RotLine.coord, fixMul]

/-- The rotation set of the identity on line `y` (44_background.md rule R365). -/
def RotAcc.identity (y : Nat) : RotAcc :=
  { rp := { RotRecord.zero with a := 65536, e := 65536, dX := 65536, dYst := 65536, kx := 65536, ky := 65536 }
    xstAcc := 0
    ystAcc := 65536 * y
    kaAcc := 0 }

theorem rotLine_identity (y : Nat) :
    rotLine (RotAcc.identity y) = { xsp := 0, ysp := 65536 * y, xp := 0, yp := 0, dXs := 65536, dYs := 0 } := by
  simp [rotLine, RotAcc.identity, RotRecord.zero, fixMul]

theorem rotCoordAt_identity {c : Cfg2} {a : Accumulators} {P : ParamSet} {y : Nat} (h : c.kte P = false)
    (ha : a.rot P = RotAcc.identity y) (m : Arena) (x : Nat) : rotCoordAt c m a P x = ⟨x, y, false⟩ := by
  rw [rotCoordAt_plain h, ha, rotLine_identity]
  simp [RotLine.coord, RotAcc.identity]

/-! ### The area -/

/-- The width and the height of the area of a rotation layer (44_background.md rule R368). -/
def rotArea (c : Cfg2) (L : Slot) (P : ParamSet) : Nat × Nat :=
  if c.over P = 3 then (512, 512)
  else if c.bmen L then (bitmapWidth c L, bitmapHeight c L)
  else (2048 * planePagesX c L, 2048 * planePagesY c L)

/-- A position lies in the area. -/
def inRotArea (area : Nat × Nat) (sx sy : Int) : Prop := 0 ≤ sx ∧ sx < area.1 ∧ 0 ≤ sy ∧ sy < area.2

/-- The dot of a rotation layer at a position of its map or bitmap, whatever the area is. -/
def rotNormalDot (c : Cfg2) (m : Arena) (L : Slot) (sx sy : Int) : LayerDot :=
  if c.bmen L then bitmapDot c m L sx sy else tileDot c m L sx sy 4

theorem rotArea_eq (c : Cfg2) (L : Slot) (P : ParamSet) :
    (rotArea c L P).1 =
        (if c.over P = 3 then 512 else if c.bmen L then bitmapWidth c L else 4 * 512 * planePagesX c L) ∧
      (rotArea c L P).2 =
        (if c.over P = 3 then 512 else if c.bmen L then bitmapHeight c L else 4 * 512 * planePagesY c L) := by
  unfold rotArea
  split
  · exact ⟨rfl, rfl⟩
  · split <;> exact ⟨rfl, rfl⟩

theorem rotDot_inside {c : Cfg2} {L : Slot} {P : ParamSet} {sx sy : Int} (h : inRotArea (rotArea c L P) sx sy)
    (m : Arena) : rotDot c m L P sx sy = rotNormalDot c m L sx sy := by
  obtain ⟨hw, hh⟩ := rotArea_eq c L P
  simp only [rotDot, ← hw, ← hh]
  exact if_pos (by simpa [inRotArea, and_assoc] using h)

/-- Outside the area OVER names what is shown (44_background.md rule R368). -/
theorem rotDot_outside {c : Cfg2} {L : Slot} {P : ParamSet} {sx sy : Int} (h : ¬inRotArea (rotArea c L P) sx sy)
    (m : Arena) :
    (c.over P = 0 → rotDot c m L P sx sy = rotNormalDot c m L sx sy) ∧
      (c.over P = 1 →
        rotDot c m L P sx sy =
          if c.bmen L then rotNormalDot c m L sx sy
          else
            charDot c m L (BitVec.ofNat 32 (c.ovpn P % 0x8000)) (sx % (charSide c L : Int)).toNat
              (sy % (charSide c L : Int)).toNat) ∧
      (c.over P = 2 ∨ c.over P = 3 → rotDot c m L P sx sy = LayerDot.clear) := by
  obtain ⟨hw, hh⟩ := rotArea_eq c L P
  simp only [rotDot, ← hw, ← hh]
  rw [if_neg (by simpa [inRotArea, and_assoc] using h)]
  refine ⟨fun e => ?_, fun e => ?_, fun e => ?_⟩
  · rw [e]; rfl
  · rw [e]; rfl
  · rcases e with e | e
    · rw [e]; rfl
    · rw [e]; rfl

theorem planePages_eq (c : Cfg2) (L : Slot) :
    planePagesX c L = (if c.plsz L % 2 = 1 then 2 else 1) ∧ planePagesY c L = if c.plsz L / 2 = 1 then 2 else 1 := by
  have h : c.plsz L / 2 < 2 := Nat.div_lt_of_lt_mul (c.bits (L.fieldIndex 5) 2).isLt
  have h1 : (c.plsz L).testBit 1 = decide (c.plsz L / 2 = 1) := by
    rw [Nat.testBit_succ, Nat.testBit_zero, Nat.mod_eq_of_lt h]
  rw [planePagesX, planePagesY, h1]
  simp [Nat.testBit_zero]

/-- The area by OVER, the layer's mode and its sizes. -/
theorem rotArea_of_sizes {c : Cfg2} {L : Slot} {P : ParamSet} {aw ah : Nat}
    (h : (c.over P = 3 ∧ aw = 512 ∧ ah = 512) ∨
      (c.over P ≠ 3 ∧ c.bmen L = false ∧ aw = 2048 * (if c.plsz L % 2 = 1 then 2 else 1) ∧
        ah = 2048 * if c.plsz L / 2 = 1 then 2 else 1) ∨
      (c.over P ≠ 3 ∧ c.bmen L = true ∧
        (c.bmsz L, aw, ah) ∈ [(0, 512, 256), (1, 512, 512), (2, 1024, 256), (3, 1024, 512)])) :
    rotArea c L P = (aw, ah) := by
  rcases h with ⟨ho, rfl, rfl⟩ | ⟨ho, hb, rfl, rfl⟩ | ⟨ho, hb, hs⟩
  · rw [rotArea, if_pos ho]
  · obtain ⟨hx, hy⟩ := planePages_eq c L
    rw [rotArea, if_neg ho, hb, if_neg Bool.false_ne_true, hx, hy]
  · rw [rotArea, if_neg ho, hb, if_pos rfl, bitmapWidth, bitmapHeight]
    simp only [List.mem_cons, Prod.mk.injEq, List.not_mem_nil, or_false] at hs
    rcases hs with ⟨hs, rfl, rfl⟩ | ⟨hs, rfl, rfl⟩ | ⟨hs, rfl, rfl⟩ | ⟨hs, rfl, rfl⟩ <;> rw [hs] <;> rfl

/-! ### The statement -/

/-- Settles O48: one clause for each stage of a rotated dot, each an equation of the section above: the record and the
line's values are the definitions', the coefficient, the parameter set, the coordinates and the area have one lemma for
each case the tables distinguish. -/
theorem rotationFollowsItsParameters : Obligations.RotationFollowsItsParameters := by
  unfold Obligations.RotationFollowsItsParameters
  refine ⟨fun c m a P => ?_, fun r => rfl, fun c m r P xm a => ?_, fun c m a w xm => ?_, fun c m a P xm => ?_,
    fun c m a P x y h ha => rotCoordAt_identity h ha m x, fun c m L P sx sy aw ah => ?_⟩
  · rw [frameInitAcc_rot]
    exact ⟨rfl, rfl, rfl, rfl⟩
  · intro id n co ha
    have hco : co = _ := fetchCoefficient_eq c m r P xm ha
    refine ⟨fun h => ?_, fun h => ?_⟩
    · rw [hco, if_neg (by simp [h])]
    · rw [hco, if_pos h]
      refine ⟨fun hk => ?_, fun hk => ?_⟩
      · rw [coefficientAt, hk, if_neg Bool.false_ne_true]
        exact ⟨rfl, coefficientOfLong_k ..⟩
      · rw [coefficientAt, hk, if_pos rfl]
        exact ⟨rfl, coefficientOfWord_k ..⟩
  · exact ⟨paramSetOf_nbg0 c m a w xm, paramSetOf_rbg0 c m a w xm⟩
  · refine ⟨fun h => rotCoordAt_plain h m a xm, fun h => ⟨fun ht => rotCoordAt_transparent h ht, fun ht => ?_⟩⟩
    rw [rotCoordAt_coefficient h ht]
    refine ⟨fun hk => ?_, fun hk => ?_, fun hk => ?_, fun hk => ?_⟩ <;> rw [hk] <;> rfl
  · intro pw ph cd normal h
    have harea : rotArea c L P = (aw, ah) := rotArea_of_sizes h
    refine ⟨fun hin => ?_, fun hout => ?_⟩
    · exact rotDot_inside (harea ▸ hin) m
    · have hcd : ((charSide c L : Nat) : Int) = cd := by
        unfold charSide; simp only [cd]; split <;> rfl
      have := rotDot_outside (harea ▸ hout : ¬inRotArea (rotArea c L P) sx sy) m
      rw [hcd] at this
      exact this

end Sys2Proof.Machine
end

section
/-! The fields of the background processor: their widths, their names, and what a read gives after a write
(10_state.md rules R56 to R59; 30_encoding.md rules R145, R146). -/

namespace Sys2Proof.Machine

/-! ### Widths -/

/-- The field at index `j` of a slot has the width of the slots' table. -/
theorem fieldWidth_slot {n j w : Nat} (hn : n < 6) (hj : layerFieldWidths[j]? = some (w + 1)) :
    fieldWidth (128 + 64 * n + j) = some (w + 1) := by
  have hlt : j < 50 := (List.getElem?_eq_some_iff.1 hj).1
  have hmod : (128 + 64 * n + j - 128) % 64 = j := by omega
  rw [fieldWidth, if_neg (by omega), if_pos (by omega), hmod, hj]

/-- Every index of a slot below 50 holds a field, 31 excepted. -/
theorem fieldWidth_fieldIndex_isSome (L : Slot) {j : Nat} (h : j < 50 ∧ j ≠ 31) :
    (fieldWidth (L.fieldIndex j)).isSome = true := by
  have hn : L.number < 6 := by cases L <;> decide
  rw [Option.isSome_iff_ne_none, ne_eq, fieldWidth_eq_none_iff, Slot.fieldIndex]
  omega

/-! ### Names -/

section
variable (s : State)

/-- A signed field of 9 bits as a word read gives it (10_state.md rule R59). -/
theorem signed_eq_read {k : Nat} (h : (fieldWidth k).isSome = true) :
    (s.cfg2.bits k 9).toInt =
      if (memRead16 s .reg2 (2 * k)).2.toNat % 2 ^ 9 < 256 then
        (((memRead16 s .reg2 (2 * k)).2.toNat % 2 ^ 9 : Nat) : Int)
      else (((memRead16 s .reg2 (2 * k)).2.toNat % 2 ^ 9 : Nat) : Int) - 512 := by
  rw [toInt_nine, bits_eq_read s 9 h]

variable (L : Slot)

theorem slotFlag_eq_read (j : Nat) (h : j < 50 ∧ j ≠ 31 := by decide) :
    (s.cfg2.flag (L.fieldIndex j)).toNat = (memRead16 s .reg2 (2 * (128 + 64 * L.number + j))).2.toNat % 2 ^ 1 :=
  flag_eq_read s (fieldWidth_fieldIndex_isSome L h)

theorem slotNum_eq_read (j w : Nat) (h : j < 50 ∧ j ≠ 31 := by decide) :
    s.cfg2.num (L.fieldIndex j) w = (memRead16 s .reg2 (2 * (128 + 64 * L.number + j))).2.toNat % 2 ^ w :=
  num_eq_read s w (fieldWidth_fieldIndex_isSome L h)
end

/-! ### Reads after a write -/

/-- A word read of an index of REG2: the field there, or 0. -/
theorem memRead16_reg2_value (s : State) (k : Nat) :
    (memRead16 s .reg2 (2 * k)).2 = if (fieldWidth k).isSome then readCell unlistedField s.cfg2 k else 0 := by
  split
  · next h => rw [memRead16_field s h]
  · next h =>
    have hk : 2 * k / 2 = k := by omega
    have hnone : s.reg2Word (2 * k) = none := (reg2Word_eq_none_iff s (2 * k)).2 (by rw [hk]; simpa using h)
    rw [memRead16_missing (r := .reg2) rfl (by omega) hnone]

theorem memWrite16_field (s : State) {k w : Nat} (h : fieldWidth k = some w) (v : Word) :
    memWrite16 s .reg2 (2 * k) v = s.storeField k w v := by
  have hk : 2 * k / 2 = k := by omega
  rw [memWrite16_reg2 s (by omega), reg2Write, hk, h]

theorem lowBits_toNat (v : Word) {w : Nat} (h : w ≤ 16) : (lowBits v w).toNat = v.toNat % 2 ^ w := by
  have hw : 2 ^ w - 1 < 2 ^ 16 := by
    have := Nat.pow_le_pow_right (n := 2) (by decide) h
    omega
  rw [lowBits, BitVec.toNat_and, BitVec.toNat_ofNat, Nat.mod_eq_of_lt hw, Nat.and_two_pow_sub_one_eq_mod]

theorem storeField_readBack (s : State) {k w : Nat} (h : fieldWidth k = some w) (v : Word) :
    (memRead16 (s.storeField k w v) .reg2 (2 * k)).2.toNat = v.toNat % 2 ^ w := by
  rw [memRead16_reg2_value, if_pos (by rw [h]; rfl), ← lowBits_toNat v (fieldWidth_le k w h)]
  exact congrArg BitVec.toNat (readCell_writeCell_same ..)

theorem storeField_readOther (s : State) {k k' : Nat} (hne : k' ≠ k) (w : Nat) (v : Word) :
    (memRead16 (s.storeField k w v) .reg2 (2 * k')).2 = (memRead16 s .reg2 (2 * k')).2 := by
  rw [memRead16_reg2_value, memRead16_reg2_value]
  congr 1
  exact readCell_writeCell_ne _ _ _ hne

theorem isResolutionField_iff (k : Nat) : isResolutionField k = true ↔ k = 1 ∨ k = 2 ∨ k = 3 := by
  simp [isResolutionField, or_assoc]

theorem storeField_timing_resolution (s : State) {k : Nat} (h : k = 1 ∨ k = 2 ∨ k = 3) (w : Nat) (v : Word) :
    (s.storeField k w v).timing =
      { s.timing with resPending := resolutionPending (s.storeField k w v).cfg2 s.timing } :=
  if_pos ((isResolutionField_iff k).2 h)

theorem storeField_timing_other (s : State) {k : Nat} (h : ¬(k = 1 ∨ k = 2 ∨ k = 3)) (w : Nat) (v : Word) :
    (s.storeField k w v).timing = s.timing := if_neg (h ∘ (isResolutionField_iff k).1)

/-! ### The statement -/

theorem globalFields_widths :
    ∀ e ∈
        [(1, [0, 5, 7, 10, 17, 24, 30, 31, 33, 36, 37, 39, 53, 54, 57, 74, 75, 76, 86, 87, 88, 89, 90]),
          (2, [2, 3, 4, 27, 32, 38, 42, 43, 55]),
          (3, [1, 8, 11, 18, 25, 28, 34, 40, 50, 56, 58, 59, 60, 61, 62, 63, 64, 65]), (4, [49, 52]),
          (5, [66, 67, 68, 69, 70, 71, 72, 73, 78, 79]), (7, [46, 77]), (8, [6, 47, 48]),
          (9, [14, 16, 21, 23, 80, 81, 82, 83, 84, 85]), (10, [13, 15, 20, 22]),
          (16, [9, 12, 19, 26, 29, 35, 41, 44, 45, 51])],
      ∀ k ∈ e.2, fieldWidth k = some e.1 := by decide

theorem slotFields_widths :
    ∀ e ∈
        [(1, [0, 1, 2, 4, 8, 9, 15, 17, 19, 20, 21, 22, 23]), (2, [5, 6, 10, 13, 14]), (3, [3, 7, 11, 12, 32]),
          (5, [18]), (6, [30]), (7, [16]), (8, [25, 27]), (11, [24, 26, 28, 29]),
          (16, [33, 34, 35, 36, 37, 38, 39, 40, 41, 42, 43, 44, 45, 46, 47, 48, 49])],
      ∀ j ∈ e.2, layerFieldWidths[j]? = some (e.1 - 1 + 1) ∧ e.1 - 1 + 1 = e.1 := by decide

/-- The listed pairs are the slots with their numbers (10_state.md rule R58). -/
theorem number_of_mem {L : Slot} {n : Nat}
    (h : (L, n) ∈ [(Slot.sprite, 0), (.rbg0, 1), (.nbg0, 2), (.nbg1, 3), (.nbg2, 4), (.nbg3, 5)]) : L.number = n := by
  simp only [List.mem_cons, Prod.mk.injEq, List.not_mem_nil, or_false] at h
  rcases h with ⟨rfl, rfl⟩ | ⟨rfl, rfl⟩ | ⟨rfl, rfl⟩ | ⟨rfl, rfl⟩ | ⟨rfl, rfl⟩ | ⟨rfl, rfl⟩ <;> rfl

/-- Settles O28: the widths are read off the two tables; each name is its index by definition, so that it is the word
read there by one of three lemmas, for a flag, a number or a signed field; and a write is a store in one cell, which
reads back there and keeps the others. -/
theorem backgroundFieldsReadBack : Obligations.BackgroundFieldsReadBack := by
  unfold Obligations.BackgroundFieldsReadBack
  refine ⟨fun w ks he => globalFields_widths (w, ks) he, fun w js he j hj n hn => ?_,
    fun k hk => (fieldWidth_eq_none_iff k).2 hk, fun s => ?_, fun s k w v hw => ?_⟩
  · obtain ⟨hwidth, hw⟩ := slotFields_widths (w, js) he j hj
    rw [fieldWidth_slot hn hwidth, hw]
  · intro c f signed' address'
    have flag (k : Nat) (h : (fieldWidth k).isSome = true := by rfl) : (c.flag k).toNat = f k 1 := flag_eq_read s h
    have num (k w : Nat) (h : (fieldWidth k).isSome = true := by rfl) : c.num k w = f k w := num_eq_read s w h
    have bits (k w : Nat) (h : (fieldWidth k).isSome = true := by rfl) : (c.bits k w).toNat = f k w :=
      bits_eq_read s w h
    have signed (k : Nat) (h : (fieldWidth k).isSome = true := by rfl) : (c.bits k 9).toInt = signed' (f k 9) :=
      signed_eq_read s h
    have address (hi lo : Nat) (h : (fieldWidth hi).isSome = true := by rfl)
        (h' : (fieldWidth lo).isSome = true := by rfl) :
        tableAddress (c.num hi 3) (c.num lo 16) = address' (f hi 3) (f lo 16) :=
      congrArg₂ tableAddress (num hi 3 h) (num lo 16 h')
    refine ⟨flag 0, bits 1 3, bits 2 2, bits 3 2, num 4 2, flag 5, num 6 8, flag 7, num 8 3, num 9 16, flag 10, num 11 3,
      num 12 16, num 13 10, num 14 9, num 15 10, num 16 9, flag 17, num 18 3, num 19 16, num 20 10, num 21 9,
      num 22 10, num 23 9, flag 24, num 25 3, num 26 16, num 27 2, num 28 3, num 29 16, bits 46 7, num 47 8,
      num 48 8, num 49 4, num 50 3, num 51 16, num 52 4, flag 53, flag 54, num 55 2, num 56 3, flag 57, flag 74,
      flag 75, flag 76, bits 77 7, num 78 5, num 79 5, signed 80, signed 81, signed 82, signed 83, signed 84,
      signed 85, flag 86, flag 87, flag 88, flag 89, flag 90, flag 30, flag 36, flag 31, flag 37, num 32 2, num 38 2,
      flag 33, flag 39, address 34 35, address 40 41, num 42 2, num 43 2, num 44 16, num 45 16, fun i hi => ?_,
      fun L n hn => ?_⟩
    · have global (k : Nat) (hk : k < 91) : (fieldWidth k).isSome = true := by
        rw [Option.isSome_iff_ne_none, ne_eq, fieldWidth_eq_none_iff]
        omega
      exact ⟨bits _ 3 (global _ (by omega)), num _ 5 (global _ (by omega))⟩
    · obtain rfl := number_of_mem hn
      intro g
      have flag (j : Nat) (h : j < 50 ∧ j ≠ 31 := by decide) : (c.flag (L.fieldIndex j)).toNat = g j 1 :=
        slotFlag_eq_read s L j h
      have num (j w : Nat) (h : j < 50 ∧ j ≠ 31 := by decide) : c.num (L.fieldIndex j) w = g j w :=
        slotNum_eq_read s L j w h
      have scroll (i f : Nat) (h : i < 50 ∧ i ≠ 31 := by decide) (h' : f < 50 ∧ f ≠ 31 := by decide) :
          c.num (L.fieldIndex i) 11 * 256 + c.num (L.fieldIndex f) 8 = g i 11 * 256 + g f 8 := by
        rw [num i 11 h, num f 8 h']
      exact ⟨flag 0, flag 1, flag 2, num 3 3, flag 4, num 5 2, num 6 2, num 7 3, flag 8, flag 9, num 10 2, num 11 3,
        num 12 3, num 13 2, num 14 2, flag 15, num 16 7, flag 17, num 18 5, flag 19, flag 20, flag 21, flag 22,
        flag 23, num 24 11, num 25 8, num 26 11, num 27 8, num 28 11, num 29 11, num 30 6, num 32 3, num 33 16,
        scroll 24 25, scroll 26 27, fun i hi => num (34 + i) 16 (by omega)⟩
  · rw [memWrite16_field s hw]
    exact ⟨storeField_readBack s hw v, fun k' hne => storeField_readOther s hne w v, rfl,
      fun hk => storeField_timing_resolution s hk w v,
      fun hk => storeField_timing_other s (by omega) w v⟩

end Sys2Proof.Machine
end

section
/-! Texels: their raw and pixel values in the six colour modes (30_encoding.md rule R124). -/

namespace Sys2Proof.Machine

/-! ### Bits of a word -/

/-- A word without its low `k` bits, and a value of `k` bits in their place. -/
theorem bank_or_toNat (bank r : Word) {k : Nat} (hk : k ≤ 16) (hr : r.toNat < 2 ^ k) :
    (bank &&& BitVec.ofNat 16 (2 ^ 16 - 2 ^ k) ||| r).toNat = bank.toNat / 2 ^ k * 2 ^ k + r.toNat := by
  have hm : 2 ^ 16 - 2 ^ k = 2 ^ k * (2 ^ (16 - k) - 1) := by
    rw [Nat.mul_sub, ← Nat.pow_add, Nat.add_sub_cancel' hk, Nat.mul_one]
  have hmask : bank &&& BitVec.ofNat 16 (2 ^ 16 - 2 ^ k) = (bank >>> k) <<< k := by
    apply BitVec.eq_of_getLsbD_eq
    intro i hi
    rw [BitVec.getLsbD_and, BitVec.getLsbD_ofNat, hm, Nat.testBit_two_pow_mul, Nat.testBit_two_pow_sub_one,
      BitVec.getLsbD_shiftLeft, BitVec.getLsbD_ushiftRight]
    by_cases h : i < k
    · simp [h]
    · have h1 : k + (i - k) = i := by omega
      have h2 : i - k < 16 - k := by omega
      have h3 : k ≤ i := by omega
      simp [hi, h, h1, h2, h3]
  have hlt : bank.toNat / 2 ^ k * 2 ^ k < 2 ^ 16 := Nat.lt_of_le_of_lt (Nat.div_mul_le_self ..) bank.isLt
  rw [hmask, BitVec.toNat_or, BitVec.toNat_shiftLeft, BitVec.toNat_ushiftRight, Nat.shiftLeft_eq,
    Nat.shiftRight_eq_div_pow, Nat.mod_eq_of_lt hlt, Nat.mul_comm, Nat.two_pow_add_eq_or_of_lt hr]

/-! ### Raw values -/

theorem pmodCM_eq (pmod : Word) : pmodCM pmod = pmod.toNat / 8 % 8 := toNat_extractLsb'_eq pmod 3 3

/-- The even texel of a byte is its high half (30_encoding.md rule R124). -/
theorem rawNibble_toNat (m : Arena) (base n : Nat) :
    (rawNibble m base n).toNat =
      if n % 2 = 0 then (m.read8 .vram1 (base + n / 2)).toNat / 16 else (m.read8 .vram1 (base + n / 2)).toNat % 16 := by
  have hb := (m.read8 .vram1 (base + n / 2)).isLt
  unfold rawNibble
  split
  · rw [BitVec.toNat_setWidth, toNat_extractLsb'_eq]; omega
  · rw [BitVec.toNat_setWidth, toNat_extractLsb'_eq]; omega

theorem rawNibble_lt (m : Arena) (base n : Nat) : (rawNibble m base n).toNat < 2 ^ 4 := by
  have hb := (m.read8 .vram1 (base + n / 2)).isLt
  rw [rawNibble_toNat]
  split <;> omega

theorem rawByte_toNat (m : Arena) (base n : Nat) : (rawByte m base n).toNat = (m.read8 .vram1 (base + n)).toNat := by
  rw [rawByte, BitVec.toNat_setWidth_of_le (by decide)]

theorem rawByte_lt (m : Arena) (base n : Nat) : (rawByte m base n).toNat < 2 ^ 8 := by
  rw [rawByte_toNat]
  exact (m.read8 .vram1 (base + n)).isLt

theorem rawByte_low_toNat (m : Arena) (base n : Nat) {k : Nat} (hk : k ≤ 16) :
    (rawByte m base n &&& BitVec.ofNat 16 (2 ^ k - 1)).toNat = (m.read8 .vram1 (base + n)).toNat % 2 ^ k := by
  rw [← rawByte_toNat]
  exact lowBits_toNat _ hk

/-! ### Texels -/

section
variable {x : Texture} {u v : Int} {n : Nat} (hn : (v * x.width + u).toNat = n) (m : Arena)
include hn

theorem fetchTexel_mode0 (h : x.mode = 0) :
    fetchTexel m x u v =
      { raw := rawNibble m x.base n, value := (x.bank &&& 0xFFF0) ||| rawNibble m x.base n } := by
  simp only [fetchTexel, h, hn]

theorem fetchTexel_mode1 (h : x.mode = 1) :
    fetchTexel m x u v =
      { raw := rawNibble m x.base n
        value := m.read16 .vram1 ((addressOf x.bank).toNat + 2 * (rawNibble m x.base n).toNat) } := by
  simp only [fetchTexel, h, hn]

theorem fetchTexel_mode2 (h : x.mode = 2) :
    fetchTexel m x u v =
      { raw := rawByte m x.base n, value := (x.bank &&& 0xFFC0) ||| (rawByte m x.base n &&& 0x003F) } := by
  simp only [fetchTexel, h, hn]

theorem fetchTexel_mode3 (h : x.mode = 3) :
    fetchTexel m x u v =
      { raw := rawByte m x.base n, value := (x.bank &&& 0xFF80) ||| (rawByte m x.base n &&& 0x007F) } := by
  simp only [fetchTexel, h, hn]

theorem fetchTexel_mode4 (h : x.mode = 4) :
    fetchTexel m x u v = { raw := rawByte m x.base n, value := (x.bank &&& 0xFF00) ||| rawByte m x.base n } := by
  simp only [fetchTexel, h, hn]

theorem fetchTexel_mode5 (h : x.mode = 5) :
    fetchTexel m x u v =
      { raw := m.read16 .vram1 (x.base + 2 * n), value := m.read16 .vram1 (x.base + 2 * n) } := by
  simp only [fetchTexel, h, hn]
end

theorem transparent_iff (x : Texel) (pmod : Word) :
    x.transparent pmod = true ↔ pmod.getLsbD 6 = false ∧ x.raw = 0 := by
  simp [Texel.transparent, pmodSpd]

/-- The low bits of a byte texel under a bank. -/
theorem bank_or_rawByte_toNat (bank : Word) (m : Arena) (base n : Nat) {k : Nat} (hk : k ≤ 16) :
    (bank &&& BitVec.ofNat 16 (2 ^ 16 - 2 ^ k) ||| (rawByte m base n &&& BitVec.ofNat 16 (2 ^ k - 1))).toNat =
      bank.toNat / 2 ^ k * 2 ^ k + (m.read8 .vram1 (base + n)).toNat % 2 ^ k := by
  have hlow : (rawByte m base n &&& BitVec.ofNat 16 (2 ^ k - 1)).toNat = _ % 2 ^ k := lowBits_toNat _ hk
  rw [bank_or_toNat bank _ hk (hlow ▸ Nat.mod_lt _ (Nat.two_pow_pos k)), hlow, rawByte_toNat]

/-- The texel of a command's operands in the six colour modes. -/
theorem fetchTexel_textureOf (m : Arena) (d : DrawOps) (t : TexOps) (u v : Nat) :
    let base := t.srca.toNat * 8
    let n := v * t.width.toNat + u
    let b := (m.read8 .vram1 (base + n / 2)).toNat
    let nibble := if n % 2 = 0 then b / 16 else b % 16
    let byte := (m.read8 .vram1 (base + n)).toNat
    let bank := d.colr.toNat
    let mode := d.pmod.toNat / 8 % 8
    let texel := fetchTexel m (textureOf d t) u v
    (mode = 0 → texel.raw.toNat = nibble ∧ texel.value.toNat = bank / 16 * 16 + nibble) ∧
    (mode = 1 → texel.raw.toNat = nibble ∧ texel.value = m.read16 .vram1 (bank * 8 + 2 * nibble)) ∧
    (mode = 2 → texel.raw.toNat = byte ∧ texel.value.toNat = bank / 64 * 64 + byte % 64) ∧
    (mode = 3 → texel.raw.toNat = byte ∧ texel.value.toNat = bank / 128 * 128 + byte % 128) ∧
    (mode = 4 → texel.raw.toNat = byte ∧ texel.value.toNat = bank / 256 * 256 + byte) ∧
    (mode = 5 → texel.raw = m.read16 .vram1 (base + 2 * n) ∧ texel.value = texel.raw) ∧
    (texel.transparent d.pmod = true ↔ d.pmod.getLsbD 6 = false ∧ texel.raw = 0) := by
  intro base n b nibble byte bank mode texel
  have hn : ((v : Int) * ((textureOf d t).width : Int) + u).toNat = n := by
    rw [← Int.natCast_mul, ← Int.natCast_add, Int.toNat_natCast]; rfl
  have hbase : (textureOf d t).base = base := addressOf_toNat t.srca
  have hmode : (textureOf d t).mode = mode := pmodCM_eq d.pmod
  have hnibble : (rawNibble m base n).toNat = nibble := rawNibble_toNat m base n
  have hbyte : (rawByte m base n).toNat = byte := rawByte_toNat m base n
  refine ⟨fun h => ?_, fun h => ?_, fun h => ?_, fun h => ?_, fun h => ?_, fun h => ?_, transparent_iff ..⟩
  · have e : texel = _ := fetchTexel_mode0 hn m (hmode.trans h)
    rw [hbase] at e
    rw [e]
    refine ⟨hnibble, ?_⟩
    rw [← hnibble]
    exact bank_or_toNat d.colr _ (k := 4) (by decide) (rawNibble_lt m base n)
  · have e : texel = _ := fetchTexel_mode1 hn m (hmode.trans h)
    rw [hbase, hnibble, addressOf_toNat] at e
    rw [e]
    exact ⟨hnibble, rfl⟩
  · have e : texel = _ := fetchTexel_mode2 hn m (hmode.trans h)
    rw [hbase] at e
    rw [e]
    exact ⟨hbyte, bank_or_rawByte_toNat d.colr m base n (k := 6) (by decide)⟩
  · have e : texel = _ := fetchTexel_mode3 hn m (hmode.trans h)
    rw [hbase] at e
    rw [e]
    exact ⟨hbyte, bank_or_rawByte_toNat d.colr m base n (k := 7) (by decide)⟩
  · have e : texel = _ := fetchTexel_mode4 hn m (hmode.trans h)
    rw [hbase] at e
    rw [e]
    refine ⟨hbyte, ?_⟩
    rw [← hbyte]
    exact bank_or_toNat d.colr _ (k := 8) (by decide) (rawByte_lt m base n)
  · have e : texel = _ := fetchTexel_mode5 hn m (hmode.trans h)
    rw [hbase] at e
    rw [e]
    exact ⟨rfl, rfl⟩

end Sys2Proof.Machine
end

section
/-! Normal sprites: the plots of the command, pixel by pixel, and what they leave in the draw buffer
(42_command_processor.md rules R233, R238, R240). -/

namespace Sys2Proof.Machine

/-! ### The edges and rows of an upright rectangle -/

/-- An increment over a span of as many steps is one pixel a step; over no steps it is nothing. -/
theorem mul_safeDiv_toFix {n k : Nat} (h : k ≤ n) : (k : Int) * safeDiv (toFix n) n = toFix k := by
  unfold safeDiv toFix
  split
  · have : k = 0 := by omega
    simp [this]
  · next hn => rw [Int.mul_comm (n : Int), Int.mul_tdiv_cancel _ hn]

theorem fixFloor_toFixHalf_add (i j : Int) : fixFloor (toFixHalf i + toFix j) = i + j := by
  unfold fixFloor toFixHalf toFix fixHalf
  omega

/-- A vertical edge steps down one line at a time. -/
theorem EdgeStepper.coord_vertical (p : Coord) {n k : Nat} (h : k ≤ n) :
    (EdgeStepper.advance^[k] (EdgeStepper.new p ⟨p.x, p.y + n⟩ n)).coord = ⟨p.x, p.y + k⟩ := by
  obtain ⟨hx, hy⟩ := (EdgeStepper.new p ⟨p.x, p.y + n⟩ n).iterate_cur k
  have hx' : (EdgeStepper.new p ⟨p.x, p.y + n⟩ n).xinc = 0 := by simp [EdgeStepper.new, safeDiv, toFix]
  have hy' : (EdgeStepper.new p ⟨p.x, p.y + n⟩ n).yinc = safeDiv (toFix n) n := by
    simp only [EdgeStepper.new, add_sub_cancel_left]
  rw [EdgeStepper.coord, hx, hy, hx', hy', mul_safeDiv_toFix h]
  show Coord.mk (fixFloor (toFixHalf p.x + k * 0)) (fixFloor (toFixHalf p.y + toFix k)) = _
  rw [Int.mul_zero, Int.add_zero, fixFloor_toFixHalf, fixFloor_toFixHalf_add]

/-- A horizontal line steps right one column at a time. -/
theorem LineStepper.coord_horizontal (p : Coord) (n k : Nat) :
    (LineStepper.advance^[k] (LineStepper.new p ⟨p.x + n, p.y⟩)).coord = ⟨p.x + k, p.y⟩ := by
  have hx : (LineStepper.new p ⟨p.x + n, p.y⟩).xmajor = true := by simp [LineStepper.new]
  have hmaj : (LineStepper.new p ⟨p.x + n, p.y⟩).majinc = fixOne := by simp [LineStepper.new]
  have hmin : (LineStepper.new p ⟨p.x + n, p.y⟩).mininc = 0 := by simp [LineStepper.new, safeDiv, toFix]
  have hmajcur : (LineStepper.new p ⟨p.x + n, p.y⟩).majcur = toFixHalf p.x := by simp [LineStepper.new]
  have hmincur : (LineStepper.new p ⟨p.x + n, p.y⟩).mincur = toFixHalf p.y := by simp [LineStepper.new]
  rw [LineStepper.coord, LineStepper.point, LineStepper.iterate_xmajor, hx, if_pos rfl, LineStepper.iterate_majcur,
    LineStepper.iterate_mincur, hmaj, hmin, hmajcur, hmincur, Int.mul_zero, Int.add_zero, fixFloor_toFixHalf]
  exact congrArg (Coord.mk · p.y) (fixFloor_toFixHalf_add p.x k)

theorem spanOf_horizontal (p : Coord) (n : Nat) : spanOf p ⟨p.x + n, p.y⟩ = n := by simp [spanOf]

theorem spanOf_vertical (p : Coord) (n : Nat) : spanOf p ⟨p.x, p.y + n⟩ = n := by simp [spanOf]

theorem quadSpan_upright (p : Coord) (x1 : Int) (h : Nat) :
    quadSpan p ⟨x1, p.y⟩ ⟨x1, p.y + h⟩ ⟨p.x, p.y + h⟩ = h := by
  rw [quadSpan, spanOf_vertical, spanOf_vertical ⟨x1, p.y⟩, Nat.max_self]

/-- Row `j` of an upright rectangle is line `j` of it. -/
theorem QuadStepper.iterate_upright (p : Coord) (x1 : Int) {h j : Nat} (hj : j ≤ h) :
    let q := QuadStepper.advance^[j] (QuadStepper.new p ⟨x1, p.y⟩ ⟨x1, p.y + h⟩ ⟨p.x, p.y + h⟩)
    q.n = h ∧ q.left.coord = ⟨p.x, p.y + j⟩ ∧ q.right.coord = ⟨x1, p.y + j⟩ := by
  have hn : max (spanOf p ⟨p.x, p.y + h⟩) (spanOf ⟨x1, p.y⟩ ⟨x1, p.y + h⟩) = h := quadSpan_upright p x1 h
  obtain ⟨hleft, hright⟩ := (QuadStepper.new p ⟨x1, p.y⟩ ⟨x1, p.y + h⟩ ⟨p.x, p.y + h⟩).iterate_edges j
  intro q
  refine ⟨?_, ?_, ?_⟩
  · rw [QuadStepper.iterate_n]; exact hn
  · rw [hleft, QuadStepper.new, hn]; exact EdgeStepper.coord_vertical p hj
  · rw [hright, QuadStepper.new, hn]; exact EdgeStepper.coord_vertical ⟨x1, p.y⟩ hj

/-- A texture of as many texels as there are points steps one texel a point (40_rasterizer.md rules R172, R178). -/
theorem mul_texel_step {n : Nat} (h : 0 < n) (k : Nat) : k * (n * 0x10000 / n) / 0x10000 = k := by
  rw [Nat.mul_div_cancel_left _ h, Nat.mul_div_cancel _ (by decide)]

/-- A horizontal line has no companions. -/
theorem pointPlots_horizontal (p : Coord) {n k : Nat} (h : k < n + 1) (v : Word) :
    pointPlots (LineStepper.advance^[k] (LineStepper.new p ⟨p.x + n, p.y⟩)) v = [⟨p.x + k, p.y, v⟩] := by
  have hs : k < spanOf p ⟨p.x + n, p.y⟩ + 1 := by rwa [spanOf_horizontal]
  rw [pointPlots_iterate _ _ hs, linePoints_getD _ _ _ hs, linePoints_getD _ _ _ (show k - 1 < _ by omega),
    LineStepper.coord_horizontal, LineStepper.coord_horizontal]
  simp [companionThenPoint]

/-! ### The plots of a normal sprite -/

section
variable (d : DrawOps) (t : TexOps) (va : Vertex) (s : State)

/-- The texel of pixel `(i, j)` of a normal sprite, mirrored as HFLIP and VFLIP say (42_command_processor.md rule
R240). -/
def spriteTexel (i j : Nat) : Texel :=
  fetchTexel s.mem (textureOf d t) (if t.hflip then (t.width.toNat : Int) - 1 - i else i)
    (if t.vflip then (t.height.toNat : Int) - 1 - j else j)

/-- The plot of pixel `(i, j)` of a normal sprite: none where its texel is transparent. -/
def spritePixel (i j : Nat) : List Plot :=
  if (spriteTexel d t s i j).transparent d.pmod then []
  else [⟨(s.position va).x + i, (s.position va).y + j, (spriteTexel d t s i j).value⟩]

/-- The plots of a normal sprite: its pixels, row by row. -/
def spritePlots : List Plot :=
  (List.range t.height.toNat).flatMap fun j => (List.range t.width.toNat).flatMap fun i => spritePixel d t va s i j

variable {d t va s}

theorem mem_spritePlots {p : Plot} :
    p ∈ spritePlots d t va s ↔
      ∃ i j, i < t.width.toNat ∧ j < t.height.toNat ∧ (spriteTexel d t s i j).transparent d.pmod = false ∧
        p = ⟨(s.position va).x + i, (s.position va).y + j, (spriteTexel d t s i j).value⟩ := by
  simp only [spritePlots, List.mem_flatMap, List.mem_range]
  constructor
  · rintro ⟨j, hj, i, hi, hp⟩
    unfold spritePixel at hp
    split at hp
    · cases hp
    · next ht => exact ⟨i, j, hi, hj, by simpa using ht, List.mem_singleton.1 hp⟩
  · rintro ⟨i, j, hi, hj, ht, rfl⟩
    exact ⟨j, hj, i, hi, by rw [spritePixel, ht]; exact List.mem_singleton_self _⟩

/-- A row of a normal sprite: texel `i` at column `i`, each point with its own. -/
theorem texRowPlots_horizontal (hg : pmodGour d.pmod = false) (m : Arena) (x : Texture) {w : Nat} (hw : x.width = w + 1)
    (row n : Nat) (hflip : Bool) (p : Coord) (v : Int) :
    texRowPlots m d x row n hflip p ⟨p.x + w, p.y⟩ v =
      (List.range x.width).flatMap fun i : Nat =>
        let texel := fetchTexel m x (if hflip then (x.width : Int) - 1 - i else i) v
        if texel.transparent d.pmod then [] else [⟨p.x + i, p.y, texel.value⟩] := by
  have hspan : spanOf p ⟨p.x + w, p.y⟩ + 1 = x.width := by rw [spanOf_horizontal, hw]
  have hfetch := texRowPlotsFrom_iterate m d x row n v (TexLineStepper.new p ⟨p.x + w, p.y⟩ x.width hflip) rfl
    x.width 0 none (fun h => absurd h (Nat.lt_irrefl 0))
  simp only [Nat.zero_add] at hfetch
  rw [texRowPlots, texLineVisits_eq, if_neg (by omega), hspan, hfetch]
  refine flatMap_congr_mem fun i hi => ?_
  have hi : i < w + 1 := hw ▸ List.mem_range.1 hi
  have hu : (TexLineStepper.advance^[i] (TexLineStepper.new p ⟨p.x + w, p.y⟩ x.width hflip)).u =
      if hflip then (x.width : Int) - 1 - i else i := by
    have := TexLineStepper.iterate_u p ⟨p.x + w, p.y⟩ x.width hflip i
    rwa [hspan, mul_texel_step (by omega)] at this
  have hline : (TexLineStepper.advance^[i] (TexLineStepper.new p ⟨p.x + w, p.y⟩ x.width hflip)).line =
      LineStepper.advance^[i] (LineStepper.new p ⟨p.x + w, p.y⟩) := by
    rw [TexLineStepper.iterate_line]
    exact congrArg _ (if_neg (by omega))
  simp only [hu, hline, shade, hg, Bool.false_eq_true, if_false, pointPlots_horizontal p hi]

/-- The rows of an upright rectangle, one line of it each. -/
theorem texQuadPlots_upright (m : Arena) (x : Texture) {h : Nat} (hh : x.height = h + 1) (hflip vflip : Bool) (p : Coord)
    (x1 : Int) :
    texQuadPlots m d x hflip vflip ⟨p, ⟨x1, p.y⟩, ⟨x1, p.y + h⟩, ⟨p.x, p.y + h⟩⟩ =
      (List.range x.height).flatMap fun j : Nat =>
        texRowPlots m d x j h hflip ⟨p.x, p.y + j⟩ ⟨x1, p.y + j⟩ (if vflip then (x.height : Int) - 1 - j else j) := by
  have hspan := quadSpan_upright p x1 h
  rw [texQuadPlots, texQuadVisits_eq, if_neg (by omega), hspan, ← hh, flatMap_zipIdx_range]
  refine flatMap_congr_mem fun j hj => ?_
  have hj : j ≤ h := by have := List.mem_range.1 hj; omega
  have hv := TexQuadStepper.iterate_v p ⟨x1, p.y⟩ ⟨x1, p.y + h⟩ ⟨p.x, p.y + h⟩ x.height vflip j
  rw [hspan, ← hh, mul_texel_step (by omega)] at hv
  have hquad : (TexQuadStepper.new p ⟨x1, p.y⟩ ⟨x1, p.y + h⟩ ⟨p.x, p.y + h⟩ x.height vflip).quad =
      QuadStepper.new p ⟨x1, p.y⟩ ⟨x1, p.y + h⟩ ⟨p.x, p.y + h⟩ := if_neg (by omega)
  obtain ⟨hn, hleft, hright⟩ := QuadStepper.iterate_upright p x1 hj
  dsimp only
  rw [hv, TexQuadStepper.iterate_quad, hquad, hn, hleft, hright]

theorem texRowPlots_empty (m : Arena) {x : Texture} (hw : x.width = 0) (row n : Nat) (hflip : Bool) (l r : Coord)
    (v : Int) : texRowPlots m d x row n hflip l r v = [] := by
  rw [texRowPlots, texLineVisits_eq, if_pos hw]
  rfl

theorem texQuadPlots_empty (m : Arena) {x : Texture} (hh : x.height = 0) (hflip vflip : Bool) (q : Corners) :
    texQuadPlots m d x hflip vflip q = [] := by
  rw [texQuadPlots, texQuadVisits_eq, if_pos hh]
  rfl

/-- The quad of a normal sprite is its pixels, row by row. -/
theorem texQuadPlots_normalCorners (hg : pmodGour d.pmod = false) :
    texQuadPlots s.mem d (textureOf d t) t.hflip t.vflip (normalCorners t va s) = spritePlots d t va s := by
  unfold spritePlots
  cases hh : t.height.toNat with
  | zero => exact texQuadPlots_empty s.mem (x := textureOf d t) hh ..
  | succ h =>
    have hcorners : normalCorners t va s =
        ⟨s.position va, ⟨(s.position va).x + t.width.toNat - 1, (s.position va).y⟩,
          ⟨(s.position va).x + t.width.toNat - 1, (s.position va).y + h⟩, ⟨(s.position va).x, (s.position va).y + h⟩⟩ := by
      have hy : (s.position va).y + (h + 1 : Nat) - 1 = (s.position va).y + h := by omega
      simp only [normalCorners, hh, hy]
    rw [hcorners, texQuadPlots_upright s.mem (textureOf d t) hh, ← hh]
    refine flatMap_congr_mem fun j _ => ?_
    cases hw : t.width.toNat with
    | zero => exact texRowPlots_empty s.mem (x := textureOf d t) hw ..
    | succ w =>
      have hx : (s.position va).x + (w + 1 : Nat) - 1 = (s.position va).x + w := by omega
      rw [hx, texRowPlots_horizontal hg s.mem (textureOf d t) hw j h t.hflip
        ⟨(s.position va).x, (s.position va).y + j⟩, ← hw]
      rfl

/-! ### The clip tests -/

/-- With the system clip inside the framebuffer a visible position is a pixel. -/
theorem onScreen_of_visible {c : RenderContext} (hH : c.sysClipH.toNat ≤ 511) (hV : c.sysClipV.toNat ≤ 255)
    {pmod : Word} {x y : Int} (h : c.visible pmod x y = true) :
    ∃ a b : Nat, x = a ∧ y = b ∧ onScreen a b := by
  simp only [RenderContext.visible, RenderContext.inSystemClip, Bool.and_eq_true, decide_eq_true_eq] at h
  obtain ⟨⟨⟨⟨hx0, hx⟩, hy0⟩, hy⟩, -⟩ := h
  exact ⟨x.toNat, y.toNat, by omega, by omega, by omega, by omega⟩

/-- A rectangle whose corners miss another has no point in it. -/
theorem not_mem_of_boxMisses {p : Coord} {w h : Nat} {x0 y0 x1 y1 x y : Int}
    (hb : boxMisses [p, ⟨p.x + w - 1, p.y⟩, ⟨p.x + w - 1, p.y + h - 1⟩, ⟨p.x, p.y + h - 1⟩] x0 y0 x1 y1 = true)
    (hx : p.x ≤ x ∧ x < p.x + w) (hy : p.y ≤ y ∧ y < p.y + h) : ¬(x0 ≤ x ∧ x ≤ x1 ∧ y0 ≤ y ∧ y ≤ y1) := by
  simp only [boxMisses, List.all_cons, List.all_nil, Bool.and_true, Bool.or_eq_true, Bool.and_eq_true,
    decide_eq_true_eq] at hb
  omega

/-- A rejected normal sprite has no visible pixel (42_command_processor.md rule R234). -/
theorem not_visible_of_rejects (hr : s.ctx.rejects d.pmod (normalCorners t va s).list = true) {i j : Nat}
    (hi : i < t.width.toNat) (hj : j < t.height.toNat) :
    s.ctx.visible d.pmod ((s.position va).x + i) ((s.position va).y + j) = false := by
  rw [← Bool.not_eq_true]
  intro hv
  simp only [RenderContext.rejects, Bool.or_eq_true, Bool.and_eq_true, Bool.not_eq_true'] at hr
  simp only [RenderContext.visible, RenderContext.inSystemClip, Bool.and_eq_true, decide_eq_true_eq] at hv
  obtain ⟨⟨⟨⟨hx0, hx⟩, hy0⟩, hy⟩, huser⟩ := hv
  rcases hr with hsys | ⟨⟨hclip, hout⟩, hbox⟩
  · exact not_mem_of_boxMisses (p := s.position va) hsys (by omega) (by omega) ⟨hx0, hx, hy0, hy⟩
  · rw [hclip, hout] at huser
    simp only [Bool.not_true, Bool.false_or, Bool.false_eq_true, if_false, RenderContext.inUserClip, Bool.and_eq_true,
      decide_eq_true_eq] at huser
    obtain ⟨⟨⟨hx0, hx⟩, hy0⟩, hy⟩ := huser
    exact not_mem_of_boxMisses (p := s.position va) hbox (by omega) (by omega) ⟨hx0, hx, hy0, hy⟩

/-! ### The writes of a normal sprite -/

/-- The words a normal sprite writes are those of its opaque visible pixels. -/
theorem mem_writesOf_normal (hg : pmodGour d.pmod = false) {w : Nat × Word} :
    w ∈ s.writesOf d.pmod (texturedPlots d t (normalCorners t va s) s) ↔
      ∃ i j, i < t.width.toNat ∧ j < t.height.toNat ∧ (spriteTexel d t s i j).transparent d.pmod = false ∧
        s.ctx.visible d.pmod ((s.position va).x + i) ((s.position va).y + j) = true ∧
        w = (fbOff ((s.position va).x + i) ((s.position va).y + j), (spriteTexel d t s i j).value) := by
  unfold texturedPlots
  split
  · next hr =>
    refine iff_of_false (by simp [State.writesOf]) ?_
    rintro ⟨i, j, hi, hj, -, hv, -⟩
    rw [not_visible_of_rejects hr hi hj] at hv
    cases hv
  · rw [texQuadPlots_normalCorners hg]
    simp only [State.writesOf, List.mem_map, List.mem_filter, mem_spritePlots]
    constructor
    · rintro ⟨_, ⟨⟨i, j, hi, hj, ht, rfl⟩, hv⟩, rfl⟩
      exact ⟨i, j, hi, hj, ht, hv, rfl⟩
    · rintro ⟨i, j, hi, hj, ht, hv, rfl⟩
      exact ⟨_, ⟨⟨i, j, hi, hj, ht, rfl⟩, hv⟩, rfl⟩

/-- Two visible pixels of a sprite at one offset are one pixel. -/
theorem pixel_injective (hH : s.ctx.sysClipH.toNat ≤ 511) (hV : s.ctx.sysClipV.toNat ≤ 255) {pmod : Word} {p : Coord}
    {i j i' j' : Nat} (h : s.ctx.visible pmod (p.x + i) (p.y + j) = true)
    (h' : s.ctx.visible pmod (p.x + i') (p.y + j') = true)
    (e : fbOff (p.x + i) (p.y + j) = fbOff (p.x + i') (p.y + j')) : i = i' ∧ j = j' := by
  obtain ⟨a, b, ha, hb, hab⟩ := onScreen_of_visible hH hV h
  obtain ⟨a', b', ha', hb', hab'⟩ := onScreen_of_visible hH hV h'
  rw [ha, hb, ha', hb'] at e
  obtain ⟨rfl, rfl⟩ := fbOff_injective hab hab' e
  omega

end

/-! ### The last write -/

theorem lastWrite_eq_none {ws : List (Nat × Word)} {o : Nat} (h : ∀ w ∈ ws, w.1 ≠ o) : lastWrite ws o = none := by
  rw [lastWrite, Option.map_eq_none_iff, List.find?_eq_none]
  intro w hw
  simpa using h w (List.mem_reverse.1 hw)

/-- Where every write to an offset is of one value, and there is one, the last is of that value. -/
theorem lastWrite_eq_some {ws : List (Nat × Word)} {o : Nat} {v : Word} (hmem : (o, v) ∈ ws)
    (h : ∀ w ∈ ws, w.1 = o → w.2 = v) : lastWrite ws o = some v := by
  rw [lastWrite]
  cases hf : ws.reverse.find? fun w => w.1 == o with
  | none => simpa using List.find?_eq_none.1 hf (o, v) (List.mem_reverse.2 hmem)
  | some w =>
    have hw : w.1 = o := by simpa using List.find?_some hf
    exact congrArg some (h w (List.mem_reverse.1 (List.mem_of_find?_eq_some hf)) hw)

/-! ### The statement -/

/-- A word of the draw buffer after a normal sprite: the last one the sprite writes there, or the old one. -/
theorem exec_nspr_read16 {d : DrawOps} {t : TexOps} {va : Vertex} {s : State} (ha : s.spriteAdmitted = true)
    (hm : pmodCM d.pmod < 6) :
    ∃ u, exec (.nspr d t va) s = .next u ∧
      ∀ x y : Int, u.mem.read16 s.drawBuffer (fbOff x y) =
        (lastWrite (s.writesOf d.pmod (texturedPlots d t (normalCorners t va s) s)) (fbOff x y)).getD
          (s.mem.read16 s.drawBuffer (fbOff x y)) := by
  have hsize : s.drawBuffer.size = Config.fbBytes := size_fbOf s.fbc.drawIndex
  refine ⟨_, drawTextured_admitted ha d t (normalCorners t va s), fun x y => ?_⟩
  rw [if_neg (by omega)]
  exact Arena.writeWords_read16 _ _ _ _ (hsize ▸ fbOff_lt x y) (fbOff_even x y)
    (hsize ▸ s.writesOf_inside d.pmod _)

/-- Settles O18: a texel by its colour mode; and the quad of a normal sprite steps one texel a pixel on both axes, so
that its writes are one word for each opaque visible pixel, all at different offsets. -/
theorem normalSpriteCopiesTheTexture : Obligations.NormalSpriteCopiesTheTexture := by
  unfold Obligations.NormalSpriteCopiesTheTexture
  refine ⟨fetchTexel_textureOf, fun d t va s ha hg hm hH hV => ?_⟩
  obtain ⟨u, hu, hread⟩ := exec_nspr_read16 (t := t) (va := va) ha hm
  refine ⟨u, hu, fun x y hxy hout => ?_, fun i j hi hj hv => ?_⟩
  · refine (hread x y).trans ?_
    rw [lastWrite_eq_none]
    · rfl
    · intro w hw e
      obtain ⟨i, j, hi, hj, -, hv, rfl⟩ := (mem_writesOf_normal hg).1 hw
      obtain ⟨a, b, hx, hy, hab⟩ := onScreen_of_visible hH hV hv
      rw [hx, hy] at e hv
      obtain ⟨rfl, rfl⟩ := fbOff_injective hab hxy e
      exact hout ⟨by omega, by omega, by omega, by omega, hv⟩
  · intro texel offset
    refine (hread _ _).trans ?_
    split
    · next ht =>
      rw [lastWrite_eq_none]
      · rfl
      · intro w hw e
        obtain ⟨i', j', -, -, ht', hv', rfl⟩ := (mem_writesOf_normal hg).1 hw
        obtain ⟨rfl, rfl⟩ := pixel_injective hH hV hv' hv e
        exact Bool.false_ne_true (ht'.symm.trans ht)
    · next ht =>
      have hmem := (mem_writesOf_normal (va := va) hg).2 ⟨i, j, hi, hj, Bool.eq_false_of_not_eq_true ht, hv, rfl⟩
      rw [lastWrite_eq_some hmem]
      · rfl
      · intro w hw e
        obtain ⟨i', j', -, -, -, hv', rfl⟩ := (mem_writesOf_normal hg).1 hw
        obtain ⟨rfl, rfl⟩ := pixel_injective hH hV hv' hv e
        rfl

end Sys2Proof.Machine
end

section
/-! The steppers in closed form: which points a line visits, which texels a textured line and a textured quad take, and
which rows a quad makes (40_rasterizer.md rules R161 to R178). -/

namespace Sys2Proof.Machine

/-! ### A coordinate moved by truncated increments -/

/-- The coordinate that `k` of `n` truncated increments from the middle of `p` toward `q` reach (40_rasterizer.md rules
R162, R175). -/
def reach (n k : Nat) (p q : Int) : Int := fixFloor (toFixHalf p + k * safeDiv (toFix (q - p)) n)

/-- `SafeDiv` is truncated division, whose quotient by 0 is 0 (40_rasterizer.md rule R161). -/
theorem safeDiv_eq_tdiv (a b : Int) : safeDiv a b = a.tdiv b := by
  unfold safeDiv
  split
  · next h => rw [h, Int.tdiv_zero]
  · rfl

theorem reach_eq_div (n k : Nat) (p q : Int) :
    reach n k p q = (p * 0x10000 + 0x8000 + k * ((q - p) * 0x10000).tdiv n) / 0x10000 := by
  rw [reach, safeDiv_eq_tdiv]
  rfl

@[simp] theorem reach_zero (n : Nat) (p q : Int) : reach n 0 p q = p := by
  rw [reach, Nat.cast_zero, Int.zero_mul, Int.add_zero, fixFloor_toFixHalf]

/-- An increment over no fewer steps than the distance is at most one pixel. -/
theorem natAbs_safeDiv_le {n : Nat} {p q : Int} (h : (q - p).natAbs ≤ n) :
    (safeDiv (toFix (q - p)) n).natAbs ≤ 0x10000 := by
  have hd : (toFix (q - p)).natAbs ≤ n * 0x10000 := by unfold toFix; omega
  rw [safeDiv_eq_tdiv, Int.natAbs_tdiv, Int.natAbs_natCast]
  exact Nat.div_le_of_le_mul hd

/-- One more increment leads to the same coordinate or a neighbour of it. -/
theorem natAbs_reach_succ_sub_le {n : Nat} {p q : Int} (h : (q - p).natAbs ≤ n) (k : Nat) :
    (reach n (k + 1) p q - reach n k p q).natAbs ≤ 1 := by
  have hinc := natAbs_safeDiv_le h
  unfold reach fixFloor
  generalize safeDiv (toFix (q - p)) n = inc at hinc ⊢
  have hnext : ((k + 1 : Nat) : Int) * inc = k * inc + inc := by push_cast; ring
  rw [hnext]
  omega

/-- All `n` increments lead to `q`: what truncation loses is less than `n / 0x10000`, at most half a pixel
(40_rasterizer.md rule R170). -/
theorem reach_self {n : Nat} {p q : Int} (h : (q - p).natAbs ≤ n) (hn : n ≤ 32768) : reach n n p q = q := by
  obtain ⟨hpos, hneg⟩ := safeDiv_mul (toFix (q - p)) n
  unfold reach
  generalize (n : Int) * safeDiv (toFix (q - p)) n = total at hpos hneg ⊢
  unfold toFix at hpos hneg
  unfold fixFloor toFixHalf toFix fixHalf
  rcases Int.le_total p q with hpq | hpq
  · obtain ⟨-, hle, hlt⟩ := hpos (by omega)
    omega
  · obtain ⟨hle, -, hlt⟩ := hneg (by omega)
    omega

/-! ### The points of a line -/

/-- The major coordinate after `k` steps from `p` toward `q` (40_rasterizer.md rules R162, R166). -/
def majorAt (k : Nat) (p q : Int) : Int := if p ≤ q then p + k else p - k

@[simp] theorem majorAt_zero (p q : Int) : majorAt 0 p q = p := by simp [majorAt]

theorem majorAt_natAbs (p q : Int) : majorAt (q - p).natAbs p q = q := by
  unfold majorAt
  split <;> omega

theorem natAbs_majorAt_succ_sub (k : Nat) (p q : Int) : (majorAt (k + 1) p q - majorAt k p q).natAbs = 1 := by
  unfold majorAt
  split <;> omega

theorem cast_spanOf (p q : Coord) : (spanOf p q : Int) = max ((q.x - p.x).natAbs : Int) (q.y - p.y).natAbs :=
  Nat.cast_max ..

/-- Point `k` of the line from `c1` to `c2` (40_rasterizer.md rules R162, R165, R166). -/
def linePoint (c1 c2 : Coord) (k : Nat) : Coord :=
  if (c2.y - c1.y).natAbs ≤ (c2.x - c1.x).natAbs then ⟨majorAt k c1.x c2.x, reach (spanOf c1 c2) k c1.y c2.y⟩
  else ⟨reach (spanOf c1 c2) k c1.x c2.x, majorAt k c1.y c2.y⟩

theorem fixFloor_toFixHalf_add_majinc (k : Nat) (p q : Int) :
    fixFloor (toFixHalf p + k * (if 0 ≤ q - p then fixOne else -fixOne)) = majorAt k p q := by
  unfold fixFloor toFixHalf toFix fixHalf fixOne majorAt
  split <;> split <;> omega

theorem LineStepper.coord_iterate_new (c1 c2 : Coord) (k : Nat) :
    (LineStepper.advance^[k] (LineStepper.new c1 c2)).coord = linePoint c1 c2 k := by
  rw [LineStepper.coord, LineStepper.point, LineStepper.iterate_xmajor, LineStepper.iterate_majcur,
    LineStepper.iterate_mincur, linePoint]
  by_cases hx : (c2.y - c1.y).natAbs ≤ (c2.x - c1.x).natAbs <;>
    simp only [LineStepper.new, hx, decide_true, decide_false, Bool.false_eq_true, if_true, if_false,
      fixFloor_toFixHalf_add_majinc] <;> rfl

@[simp] theorem linePoints_length (c1 c2 : Coord) : (linePoints c1 c2).length = spanOf c1 c2 + 1 := by
  rw [linePoints, lineVisits_eq, List.length_map, List.length_map, List.length_range]

theorem linePoints_getElem?_eq_linePoint {c1 c2 : Coord} {k : Nat} (h : k ≤ spanOf c1 c2) :
    (linePoints c1 c2)[k]? = some (linePoint c1 c2 k) := by
  rw [linePoints_getElem? c1 c2 (Nat.lt_succ_of_le h), LineStepper.coord_iterate_new]

@[simp] theorem linePoint_zero (c1 c2 : Coord) : linePoint c1 c2 0 = c1 := by simp [linePoint]

theorem natAbs_x_le_spanOf (p q : Coord) : (q.x - p.x).natAbs ≤ spanOf p q := Nat.le_max_left ..

theorem natAbs_y_le_spanOf (p q : Coord) : (q.y - p.y).natAbs ≤ spanOf p q := Nat.le_max_right ..

theorem linePoint_spanOf {c1 c2 : Coord} (h : spanOf c1 c2 ≤ 32768) : linePoint c1 c2 (spanOf c1 c2) = c2 := by
  unfold linePoint
  split
  · next hx =>
    have hmajor : majorAt (spanOf c1 c2) c1.x c2.x = c2.x := by
      rw [spanOf, Nat.max_eq_left hx, majorAt_natAbs]
    rw [hmajor, reach_self (natAbs_y_le_spanOf c1 c2) h]
  · next hy =>
    have hmajor : majorAt (spanOf c1 c2) c1.y c2.y = c2.y := by
      rw [spanOf, Nat.max_eq_right (Nat.le_of_not_le hy), majorAt_natAbs]
    rw [hmajor, reach_self (natAbs_x_le_spanOf c1 c2) h]

/-- Consecutive points are neighbours: one step along the major axis, at most one along the minor. -/
theorem spanOf_linePoint_succ (c1 c2 : Coord) (k : Nat) : spanOf (linePoint c1 c2 k) (linePoint c1 c2 (k + 1)) = 1 := by
  unfold linePoint
  split
  · have hmajor := natAbs_majorAt_succ_sub k c1.x c2.x
    have hminor := natAbs_reach_succ_sub_le (natAbs_y_le_spanOf c1 c2) k
    exact (congrArg (max · _) hmajor).trans (Nat.max_eq_left hminor)
  · have hmajor := natAbs_majorAt_succ_sub k c1.y c2.y
    have hminor := natAbs_reach_succ_sub_le (natAbs_x_le_spanOf c1 c2) k
    exact (congrArg (max _) hmajor).trans (Nat.max_eq_right hminor)

/-- Settles O20: the points of a line are `linePoint` at 0 to its span. -/
theorem lineIsAnEightConnectedPath : Obligations.LineIsAnEightConnectedPath := by
  unfold Obligations.LineIsAnEightConnectedPath
  intro c1 c2
  refine ⟨linePoints_length c1 c2, ?_, fun k p q hp hq => ?_, fun h => ?_, fun k hk => ?_⟩
  · rw [List.head?_eq_getElem?, linePoints_getElem?_eq_linePoint (Nat.zero_le _), linePoint_zero]
  · have hk : k + 1 ≤ spanOf c1 c2 := by
      obtain ⟨hlt, -⟩ := List.getElem?_eq_some_iff.1 hq
      rw [linePoints_length] at hlt
      omega
    rw [linePoints_getElem?_eq_linePoint (Nat.le_of_succ_le hk), Option.some_inj] at hp
    rw [linePoints_getElem?_eq_linePoint hk, Option.some_inj] at hq
    rw [← hp, ← hq]
    exact spanOf_linePoint_succ c1 c2 k
  · rw [List.getLast?_eq_getElem?, linePoints_length, Nat.add_sub_cancel,
      linePoints_getElem?_eq_linePoint (Nat.le_refl _), linePoint_spanOf h]
  · rw [linePoints_getElem?_eq_linePoint hk, linePoint, reach_eq_div, reach_eq_div, cast_spanOf]
    rfl

/-! ### Texels and texture rows -/

/-- The texel at point `k` of `n + 1` is one of the `size` there are: `n + 1` floored increments sum to at most
`size`. -/
theorem texel_lt {size n k : Nat} (hs : 0 < size) (hk : k < n + 1) :
    k * (size * 0x10000 / (n + 1)) / 0x10000 < size := by
  have hsum : k * (size * 0x10000 / (n + 1)) < size * 0x10000 :=
    calc k * (size * 0x10000 / (n + 1))
        ≤ k * (size * 0x10000) / (n + 1) := Nat.mul_div_le_mul_div_assoc ..
      _ < size * 0x10000 := Nat.div_lt_of_lt_mul (Nat.mul_lt_mul_of_pos_right hk (by omega))
  omega

/-- The index stays in range from either end of the texture (40_rasterizer.md rules R173, R174). -/
theorem texel_in_range {size n k : Nat} (hs : size ≠ 0) (hk : k ∈ List.range (n + 1)) (flip : Bool) :
    let i := k * (size * 0x10000 / (n + 1)) / 0x10000
    0 ≤ (if flip then (size : Int) - 1 - i else i) ∧ (if flip then (size : Int) - 1 - i else i) < size := by
  intro i
  have hi : i < size := texel_lt (Nat.pos_of_ne_zero hs) (List.mem_range.1 hk)
  split <;> omega

/-- Settles O21: at point `k` the index has moved `k` floored increments, from the one end or the other. -/
theorem texelIndexStaysInRange : Obligations.TexelIndexStaysInRange := by
  unfold Obligations.TexelIndexStaysInRange
  refine ⟨fun c1 c2 size flip => ⟨fun s hs => ?_, texLineVisits_eq c1 c2 0 flip⟩,
    fun a b c d size flip => ⟨fun s hs => ?_, texQuadVisits_eq a b c d 0 flip⟩⟩
  · rw [texLineVisits_eq] at hs
    split at hs
    · cases hs
    · next hsize =>
      obtain ⟨k, hk, rfl⟩ := List.mem_map.1 hs
      rw [TexLineStepper.iterate_u]
      exact texel_in_range hsize hk flip
  · rw [texQuadVisits_eq] at hs
    split at hs
    · cases hs
    · next hsize =>
      obtain ⟨k, hk, rfl⟩ := List.mem_map.1 hs
      rw [TexQuadStepper.iterate_v]
      exact texel_in_range hsize hk flip

/-! ### The rows of a quad -/

/-- The point that `k` of `n` increments along an edge reach (40_rasterizer.md rules R175, R176). -/
def edgePoint (n k : Nat) (p q : Coord) : Coord := ⟨reach n k p.x q.x, reach n k p.y q.y⟩

theorem EdgeStepper.coord_iterate_new (p q : Coord) (n k : Nat) :
    (EdgeStepper.advance^[k] (EdgeStepper.new p q n)).coord = edgePoint n k p q := by
  obtain ⟨hx, hy⟩ := (EdgeStepper.new p q n).iterate_cur k
  rw [EdgeStepper.coord, hx, hy]
  rfl

@[simp] theorem edgePoint_zero (n : Nat) (p q : Coord) : edgePoint n 0 p q = p := by simp [edgePoint]

theorem edgePoint_self {n : Nat} {p q : Coord} (h : spanOf p q ≤ n) (hn : n ≤ 32768) : edgePoint n n p q = q := by
  rw [edgePoint, reach_self ((natAbs_x_le_spanOf p q).trans h) hn, reach_self ((natAbs_y_le_spanOf p q).trans h) hn]

theorem edgePoint_eq_div (n k : Nat) (p q : Coord) :
    edgePoint n k p q =
      ⟨(p.x * 0x10000 + 0x8000 + k * ((q.x - p.x) * 0x10000).tdiv n) / 0x10000,
        (p.y * 0x10000 + 0x8000 + k * ((q.y - p.y) * 0x10000).tdiv n) / 0x10000⟩ := by
  rw [edgePoint, reach_eq_div, reach_eq_div]

@[simp] theorem quadRows_length (a b c d : Coord) : (quadRows a b c d).length = quadSpan a b c d + 1 := by
  rw [quadRows, quadVisits_eq, List.length_map, List.length_map, List.length_range]

theorem quadRows_getElem?_eq_edgePoints {a b c d : Coord} {k : Nat} (h : k ≤ quadSpan a b c d) :
    (quadRows a b c d)[k]? =
      some (edgePoint (quadSpan a b c d) k a d, edgePoint (quadSpan a b c d) k b c) := by
  obtain ⟨hleft, hright⟩ := (QuadStepper.new a b c d).iterate_edges k
  rw [quadRows_getElem? a b c d (Nat.lt_succ_of_le h), hleft, hright, ← EdgeStepper.coord_iterate_new,
    ← EdgeStepper.coord_iterate_new]
  rfl

/-- Settles O22: row `k` of a quad joins `edgePoint` of its two edges, which start at A and B and, over a span of at
most 32768, end at D and C. -/
theorem quadStepsItsLongerEdge : Obligations.QuadStepsItsLongerEdge := by
  unfold Obligations.QuadStepsItsLongerEdge
  intro a b c d span
  refine ⟨quadRows_length a b c d, decide_eq_true_iff, fun h => ⟨?_, ?_⟩, fun k hk => ?_⟩
  · rw [List.head?_eq_getElem?, quadRows_getElem?_eq_edgePoints (Nat.zero_le _), edgePoint_zero, edgePoint_zero]
  · have hleft : edgePoint (quadSpan a b c d) (quadSpan a b c d) a d = d := edgePoint_self (Nat.le_max_left ..) h
    have hright : edgePoint (quadSpan a b c d) (quadSpan a b c d) b c = c := edgePoint_self (Nat.le_max_right ..) h
    rw [List.getLast?_eq_getElem?, quadRows_length, Nat.add_sub_cancel,
      quadRows_getElem?_eq_edgePoints (Nat.le_refl _), hleft, hright]
  · rw [quadRows_getElem?_eq_edgePoints hk, edgePoint_eq_div, edgePoint_eq_div]
    rfl

end Sys2Proof.Machine
end

section
/-! The erase and the swap: what a pixel reads after an erase, and the state after a swap (41_framebuffer.md rules R203 to
R206). -/

namespace Sys2Proof.Machine

/-! ### Filled pixels -/

/-- A pixel on the screen reads as the fill value when it is among the filled ones, as before otherwise. -/
theorem Arena.fillPixels_read16 (m : Arena) (b : Bool) {px : List (Nat × Nat)} (v : Word) {x y : Nat}
    (hpx : ∀ p ∈ px, onScreen p.1 p.2) (h : onScreen x y) :
    (m.fillPixels (fbOf b) px v).read16 (fbOf b) (fbOff x y) =
      if (x, y) ∈ px then v else m.read16 (fbOf b) (fbOff x y) := by
  have hin : ∀ w ∈ px.map fun p => (fbOff p.1 p.2, v), w.1 < (fbOf b).size ∧ w.1 % 2 = 0 :=
    List.forall_mem_map.2 fun p _ => ⟨size_fbOf b ▸ fbOff_lt p.1 p.2, fbOff_even p.1 p.2⟩
  rw [Arena.fillPixels_eq, Arena.writeWords_read16 _ _ _ _ (size_fbOf b ▸ fbOff_lt x y) (fbOff_even x y) hin]
  split
  · next hmem =>
    have hwrite : (fbOff x y, v) ∈ px.map fun p => (fbOff p.1 p.2, v) := List.mem_map.2 ⟨(x, y), hmem, rfl⟩
    rw [lastWrite_eq_some hwrite (List.forall_mem_map.2 fun _ _ _ => rfl), Option.getD_some]
  · next hmem =>
    rw [lastWrite_eq_none, Option.getD_none]
    refine List.forall_mem_map.2 fun p hp e => ?_
    obtain ⟨rfl, rfl⟩ := fbOff_injective (hpx p hp) h e
    exact hmem hp

/-! ### The erase -/

/-- The erase rectangle with its scale as a factor (41_framebuffer.md rule R203). -/
theorem eraseRect_contains_iff (s : State) (x y : Nat) :
    let scaleX := if s.timing.hires then 2 else 1
    let scaleY := if s.timing.dblInterlace then 2 else 1
    s.eraseRect.contains x y ↔
      s.reg1.eraseX1.toNat * 8 * scaleX ≤ x ∧ x < min (s.reg1.eraseX3.toNat * 8 * scaleX) 512 ∧
        s.reg1.eraseY1.toNat * scaleY ≤ y ∧ y ≤ min (s.reg1.eraseY3.toNat * scaleY) 255 := by
  have scale (n : Nat) (c : Bool) : n <<< (if c then 1 else 0) = n * if c then 2 else 1 := by
    rw [Nat.shiftLeft_eq]; cases c <;> rfl
  simp only [Rect.contains, State.eraseRect, scale]

theorem eraseDisplay_fbReadDisplay (s : State) {x y : Nat} (h : onScreen x y) :
    s.eraseDisplay.fbReadDisplay x y =
      if (x, y) ∈ s.eraseRect.pixels then s.reg1.eraseFill else s.fbReadDisplay x y :=
  Arena.fillPixels_read16 s.mem _ _ (fun p hp => eraseRect_onScreen s ((Rect.mem_pixels _ p).1 hp)) h

theorem eraseDisplay_fbReadDisplay_inside (s : State) {x y : Nat} (h : onScreen x y) (hin : s.eraseRect.contains x y) :
    s.eraseDisplay.fbReadDisplay x y = s.reg1.eraseFill :=
  (eraseDisplay_fbReadDisplay s h).trans (if_pos ((Rect.mem_pixels _ (x, y)).2 hin))

theorem eraseDisplay_fbReadDisplay_outside (s : State) {x y : Nat} (h : onScreen x y)
    (hout : ¬s.eraseRect.contains x y) : s.eraseDisplay.fbReadDisplay x y = s.fbReadDisplay x y :=
  (eraseDisplay_fbReadDisplay s h).trans (if_neg fun hmem => hout ((Rect.mem_pixels _ (x, y)).1 hmem))

theorem eraseDisplay_read8_other (s : State) {id : MemId} (h : id ≠ s.displayBuffer) (a : Nat) :
    s.eraseDisplay.mem.read8 id a = s.mem.read8 id a := by
  rw [State.eraseDisplay_mem, Arena.fillPixels_eq]
  exact Arena.writeWords_read8_other h _ _ _

/-- A second erase changes no pixel: the rectangle, the buffer and the fill value are those of the first. -/
theorem eraseDisplay_eraseDisplay_fbReadDisplay (s : State) {x y : Nat} (h : onScreen x y) :
    s.eraseDisplay.eraseDisplay.fbReadDisplay x y = s.eraseDisplay.fbReadDisplay x y := by
  by_cases hin : s.eraseRect.contains x y
  · rw [eraseDisplay_fbReadDisplay_inside s.eraseDisplay h hin, eraseDisplay_fbReadDisplay_inside s h hin]
    rfl
  · exact eraseDisplay_fbReadDisplay_outside s.eraseDisplay h hin

/-! ### The swap -/

/-- The state after a swap, field by field. -/
theorem swap_admitted_eq {s : State} (h : s.spriteAdmitted = true) :
    swap s =
      .next
        { s with
          mem := if s.fbc.manualErase then s.eraseDisplay.mem else s.mem
          reg1 := if s.reg1.plotTrigger = 2#2 then s.reg1.startFrame else s.reg1
          fbc := { s.fbc with manualErase := false, drawIndex := !s.fbc.drawIndex }
          ctx := if s.reg1.plotTrigger = 2#2 then RenderContext.frameStart else s.ctx
          out := s.out ++ [.bufferSwap] } := by
  rw [swap_admitted h, restartIfContinuous_eq, serveManualErase_eq]
  rfl

/-- After a swap the bus window shows the buffer that had the display role, with the manual erase done if one was
requested. -/
theorem memRead16_fb_of_swap {s u : State} (h : swap s = .next u) (x y : Int) :
    (memRead16 u .fb (fbOff x y)).2 =
      if s.fbc.manualErase then s.eraseDisplay.fbReadDisplay x y else s.fbReadDisplay x y := by
  rw [swap_admitted_eq (swap_eq_next.1 h).1, Host.Outcome.next.injEq] at h
  subst h
  rw [memRead16_memory (r := .fb) rfl (fbOff_even x y)]
  split
  · rfl
  · rfl

/-! ### The statements -/

/-- Settles O23: a pixel reads as the last word the erase writes at its offset, or as before; the swap hands the same
buffer to the bus, and a manual erase inside it changes no pixel again. -/
theorem eraseFillsExactlyItsRectangle : Obligations.EraseFillsExactlyItsRectangle := by
  unfold Obligations.EraseFillsExactlyItsRectangle
  intro s ha
  refine ⟨s.eraseDisplay, eraseActive_admitted ha, rfl, fun x y h => ?_, fun _ a hid => eraseDisplay_read8_other s hid a,
    fun u hu x y h => ?_⟩
  · intro scaleX scaleY inside
    have hiff : s.eraseRect.contains x y ↔ inside := eraseRect_contains_iff s x y
    exact ⟨fun hin => eraseDisplay_fbReadDisplay_inside s h (hiff.2 hin),
      fun hout => eraseDisplay_fbReadDisplay_outside s h (mt hiff.1 hout)⟩
  · rw [memRead16_fb_of_swap hu]
    split
    · exact eraseDisplay_eraseDisplay_fbReadDisplay s h
    · rfl

/-- Settles O24: each clause is a field of the state after the swap. -/
theorem swapTogglesTheRoles : Obligations.SwapTogglesTheRoles := by
  unfold Obligations.SwapTogglesTheRoles
  intro s ha
  refine ⟨_, swap_admitted_eq ha, rfl, rfl, fun h => ?_, fun h e he => ?_, fun h => ⟨if_neg h, if_neg h⟩,
    fun h => ⟨if_pos h, if_pos h⟩⟩
  · exact if_neg (Bool.eq_false_iff.1 h)
  · obtain ⟨-, rfl⟩ := eraseActive_eq_next.1 he
    exact if_pos h

end Sys2Proof.Machine
end

section
/-! Control words: every table is a command of its rows; the operations that set a field, log or end the frame; and the
jump modes (42_command_processor.md rules R222 to R230, R252 to R259). -/

namespace Sys2Proof

/-! ### The rows of a decoded command -/

/-- Under the mask of the opcode rows a control word without the end bit and the skip bit is its opcode. -/
theorem and_opcodeMask {w : Word} (h15 : w.getLsbD 15 = false) (h14 : w.getLsbD 14 = false) :
    w &&& 0xC00F = BitVec.ofNat 16 (ctrlOpcode w).toNat := by
  have mask : ∀ k : Fin 16, (0xC00F : Word).getLsbD k = (decide (k.val < 4) || decide (14 ≤ k.val)) := by decide
  apply BitVec.eq_of_getLsbD_eq
  intro i hi
  rw [BitVec.ofNat_toNat, BitVec.getLsbD_and, mask ⟨i, hi⟩, BitVec.getLsbD_setWidth, ctrlOpcode,
    BitVec.getLsbD_extractLsb', Nat.zero_add]
  rcases (by omega : i < 4 ∨ i = 14 ∨ i = 15 ∨ ¬i < 4 ∧ ¬14 ≤ i) with h | rfl | rfl | ⟨h, h'⟩
  · simp [h, hi]
  · simpa using h14
  · simpa using h15
  · simp [h, h']

/-- Under the mask of the jump rows a control word without the end bit is its jump mode. -/
theorem and_jumpMask {w : Word} (h15 : w.getLsbD 15 = false) :
    w &&& 0xB000 = BitVec.ofNat 16 ((ctrlJump w).toNat * 0x1000) := by
  have mask : ∀ k : Fin 16, (0xB000 : Word).getLsbD k = (decide (12 ≤ k.val) && decide (k.val ≠ 14)) := by decide
  apply BitVec.eq_of_getLsbD_eq
  intro i hi
  rw [BitVec.getLsbD_and, mask ⟨i, hi⟩, BitVec.getLsbD_ofNat, show 0x1000 = 2 ^ 12 from rfl, Nat.testBit_mul_two_pow,
    BitVec.testBit_toNat, ctrlJump, BitVec.getLsbD_extractLsb']
  rcases (by omega : i < 12 ∨ i = 12 ∨ i = 13 ∨ i = 14 ∨ i = 15) with h | rfl | rfl | rfl | rfl
  · simp [Nat.not_le.2 h]
  · simp
  · simp
  · simp
  · simpa using h15

/-- A well-formed operation of the opcode row `k`. -/
structure Instr.InOpcodeRow (k : Nat) (i : Instr) : Prop where
  isJump : i.isJump = false
  wellFormed : i.wellFormed = true
  ne_endList : i ≠ .endList
  mask : rowMask i = 0xC00F
  pattern : rowMatch i = BitVec.ofNat 16 k

theorem decodeOpcode_inOpcodeRow (t : CmdTable) : (decodeOpcode t).InOpcodeRow (ctrlOpcode t.ctrl).toNat := by
  have hlt := (ctrlOpcode t.ctrl).isLt
  unfold decodeOpcode
  generalize (ctrlOpcode t.ctrl).toNat = k at hlt
  interval_cases k <;> exact ⟨rfl, rfl, nofun, rfl, rfl⟩

/-- A well-formed jump mode of the jump row `k`. -/
structure Instr.InJumpRow (k : Nat) (i : Instr) : Prop where
  isJump : i.isJump = true
  wellFormed : i.wellFormed = true
  mask : rowMask i = 0xB000
  pattern : rowMatch i = BitVec.ofNat 16 (k * 0x1000)

theorem decodeJumpMode_inJumpRow (t : CmdTable) : (decodeJumpMode t).InJumpRow (ctrlJump t.ctrl).toNat := by
  have hlt := (ctrlJump t.ctrl).isLt
  unfold decodeJumpMode
  generalize (ctrlJump t.ctrl).toNat = k at hlt
  interval_cases k
  · exact ⟨rfl, rfl, rfl, rfl⟩
  · change (if t.link = 0#16 then Instr.jumpAssignZero else .jumpAssign t.link).InJumpRow 1
    split
    · exact ⟨rfl, rfl, rfl, rfl⟩
    · next hl => exact ⟨rfl, bne_iff_ne.2 hl, rfl, rfl⟩
  · exact ⟨rfl, rfl, rfl, rfl⟩
  · exact ⟨rfl, rfl, rfl, rfl⟩

/-- An operation that is neither a jump mode nor the end of the list, and a well-formed jump mode, are a command. -/
theorem Command.wellFormed_of {op j : Instr} (hop : op.isJump = false) (hw : op.wellFormed = true) (hne : op ≠ .endList)
    (hj : j.isJump = true) (hjw : j.wellFormed = true) : Command.wellFormed ⟨op, some j⟩ = true := by
  simp [Command.wellFormed, hop, hw, hne, hj, hjw]

theorem and_endMask {w : Word} (h : w.getLsbD 15 = true) : w &&& 0x8000 = 0x8000 := by
  have := BitVec.and_twoPow w 15
  rwa [h, if_pos rfl] at this

theorem and_skipMask {w : Word} (h15 : w.getLsbD 15 = false) (h14 : w.getLsbD 14 = true) : w &&& 0xC000 = 0x4000 := by
  have e15 := BitVec.and_twoPow w 15
  have e14 := BitVec.and_twoPow w 14
  rw [h15, if_neg Bool.false_ne_true] at e15
  rw [h14, if_pos rfl] at e14
  rw [show (0xC000 : Word) = BitVec.twoPow 16 15 ||| BitVec.twoPow 16 14 from rfl, BitVec.and_or_distrib_left, e15, e14]
  rfl

/-- Settles O2: the end bit, the skip bit or the opcode selects the operation, and the jump field the jump mode, each the
bits its row's mask keeps. -/
theorem everyTableIsACommandOfItsRows : Obligations.EveryTableIsACommandOfItsRows := by
  unfold Obligations.EveryTableIsACommandOfItsRows
  intro t
  cases h15 : t.ctrl.getLsbD 15 with
  | true =>
    rw [decode_of_end h15]
    exact ⟨rfl, and_endMask h15, nofun⟩
  | false =>
    have hj := decodeJumpMode_inJumpRow t
    have jumpRow : ∀ j, some (decodeJumpMode t) = some j → t.ctrl &&& rowMask j = rowMatch j := by
      rintro _ ⟨⟩
      rw [hj.mask, hj.pattern, and_jumpMask h15]
    cases h14 : t.ctrl.getLsbD 14 with
    | true =>
      rw [decode_of_skip h15 h14]
      exact ⟨Command.wellFormed_of rfl rfl nofun hj.isJump hj.wellFormed, and_skipMask h15 h14, jumpRow⟩
    | false =>
      have hop := decodeOpcode_inOpcodeRow t
      rw [decode_of_opcode h15 h14]
      refine ⟨Command.wellFormed_of hop.isJump hop.wellFormed hop.ne_endList hj.isJump hj.wellFormed, ?_, jumpRow⟩
      rw [hop.mask, hop.pattern, and_opcodeMask h15 h14]

namespace Machine

/-! ### A grant of command steps -/

theorem keepGrant_eq (s : State) (n : Nat) (rest : List Input) :
    State.keepGrant { s with sched := rest, result := .nothing } n =
      { s with sched := if n = 0 then rest else .commands n :: rest, result := .nothing } := by
  cases n with
  | zero => rfl
  | succ n => rfl

theorem step_commands_idle {s : State} {n : Nat} {rest : List Input} (h : s.sched = .commands (n + 1) :: rest)
    (hr : s.ctx.rendering = false) : step s = .next { s with sched := rest, result := .nothing } :=
  (step_of_sched_cons h).trans (if_neg (by simp [hr]))

/-- A grant runs the command at `cmdAddr`, what is left of the grant being the next input. -/
theorem step_commands_running {s : State} {n : Nat} {rest : List Input} (h : s.sched = .commands (n + 1) :: rest)
    (hr : s.ctx.rendering = true) :
    step s =
      runCommand s.fetchCommand
        { s with sched := if n = 0 then rest else .commands n :: rest, result := .nothing } := by
  rw [step_of_sched_cons h, ← keepGrant_eq s n rest]
  refine (if_pos hr).trans ?_
  cases n with
  | zero => rfl
  | succ n => rfl

/-- Settles O7: decoding the bytes at `cmdAddr` is fetching the command, and a step of a grant runs that. -/
theorem grantRunsTheCommandAtCmdAddr : Obligations.GrantRunsTheCommandAtCmdAddr := by
  unfold Obligations.GrantRunsTheCommandAtCmdAddr
  refine fun s n rest h => ⟨step_commands_idle h, fun hr c more hc => ?_⟩
  rw [decodeBytes_commandBytes, Except.ok.injEq, Prod.mk.injEq] at hc
  rw [step_commands_running h hr, hc.1]
  rfl

/-! ### END, SKIP, the unrecognized opcodes and the context commands -/

/-- Settles O8: the end bit is tested first, and `END` is the end of the frame. -/
theorem endBitEndsTheFrame : Obligations.EndBitEndsTheFrame := by
  unfold Obligations.EndBitEndsTheFrame
  refine ⟨fun t h => decode_of_end h, fun s h => ?_⟩
  rw [exec, execEndList, guardSprite_admitted h, endFrame_eq, List.append_assoc]
  rfl

/-- Settles O9: the skip bit is tested before the opcode, and `SKIP` leaves the state alone. -/
theorem skipBitExecutesNothing : Obligations.SkipBitExecutesNothing := by
  unfold Obligations.SkipBitExecutesNothing
  exact ⟨fun t h15 h14 => decode_of_skip h15 h14, fun s h => guardSprite_admitted h _⟩

/-- Settles O10: each of the seven opcodes is `unrecognized`, which logs. -/
theorem unrecognizedOpcodesOnlyLog : Obligations.UnrecognizedOpcodesOnlyLog := by
  unfold Obligations.UnrecognizedOpcodesOnlyLog
  intro i hi s h
  have hu : exec i s = unrecognized s := by
    simp only [List.mem_cons, List.not_mem_nil, or_false] at hi
    rcases hi with rfl | rfl | rfl | rfl | rfl | rfl | rfl <;> rfl
  exact hu.trans (guardSprite_admitted h _)

/-- A control word that matches an opcode row decodes to the operation of that opcode. -/
theorem decode_op_of_opcodeRow {t : CmdTable} {k : Nat} (hk : k < 16) (h : t.ctrl &&& 0xC00F = BitVec.ofNat 16 k) :
    (decode t).op = decodeOpcode t ∧ (ctrlOpcode t.ctrl).toNat = k := by
  obtain ⟨h15, h14, hop⟩ := fields_of_opcodeRow hk h
  exact ⟨congrArg Command.op (decode_of_opcode h15 h14), hop⟩

/-- Settles O11: the opcode selects the operands, and each command sets its fields in an admitted sprite mode. -/
theorem contextCommandsSetTheirFields : Obligations.ContextCommandsSetTheirFields := by
  unfold Obligations.ContextCommandsSetTheirFields
  refine ⟨fun t h => ?_, fun t h => ?_, fun p q s h => ?_, fun q s h => ?_, fun t h => ?_, fun va s h => ?_⟩
  · obtain ⟨hd, hop⟩ := decode_op_of_opcodeRow (k := 8) (by decide) h
    rw [hd, decodeOpcode, hop]
    rfl
  · obtain ⟨hd, hop⟩ := decode_op_of_opcodeRow (k := 9) (by decide) h
    rw [hd, decodeOpcode, hop]
    rfl
  · rw [exec, execUclip, guardSprite_admitted h]
    rfl
  · rw [exec, execSclip, guardSprite_admitted h]
    rfl
  · obtain ⟨hd, hop⟩ := decode_op_of_opcodeRow (k := 10) (by decide) h
    rw [hd, decodeOpcode, hop]
    rfl
  · rw [exec, execLcoord, guardSprite_admitted h]
    rfl

/-! ### Jump modes -/

theorem decode_jump_of_not_end {t : CmdTable} (h : t.ctrl.getLsbD 15 = false) :
    (decode t).jump = some (decodeJumpMode t) := by
  simp only [decode, ctrlEnd, h, Bool.false_eq_true, if_false]

/-- Settles O12: the jump field selects the mode, and the two addresses are reduced by their 19 bits. -/
theorem nextCallAndReturnMoveTheAddress : Obligations.NextCallAndReturnMoveTheAddress := by
  unfold Obligations.NextCallAndReturnMoveTheAddress
  refine ⟨fun t h => ⟨fun hj => ?_, fun hj => ?_, fun hj => ?_⟩, fun s => ?_, fun link s => ⟨fun h => ?_, fun h => ?_⟩,
    fun s => ⟨fun h => if_pos h, fun h => ?_⟩⟩
  · rw [decode_jump_of_not_end h, decodeJumpMode, ctrlJump, hj]; rfl
  · rw [decode_jump_of_not_end h, decodeJumpMode, ctrlJump, hj]; rfl
  · rw [decode_jump_of_not_end h, decodeJumpMode, ctrlJump, hj]; rfl
  · rw [← nextCommand_eq]; rfl
  · rw [← nextCommand_eq, ← addressOf_eq]
    simp only [exec, execJumpCall, State.withCtx, h, Bool.false_eq_true, if_false]
  · rw [← addressOf_eq]
    simp only [exec, execJumpCall, State.withCtx, h, if_true]
  · rw [← nextCommand_eq]
    exact if_neg (by simp [h])

/-- Settles O13: LINK tells the loop guard from a jump, in the decoder and, by its target, in the jump. -/
theorem assignJumpsOrEndsTheFrame : Obligations.AssignJumpsOrEndsTheFrame := by
  unfold Obligations.AssignJumpsOrEndsTheFrame
  refine ⟨fun t h hj => ?_, fun link s => ?_, fun s => ?_⟩
  · rw [decode_jump_of_not_end h, decodeJumpMode, ctrlJump, hj]
    exact ⟨fun hl => congrArg some (if_pos hl), fun hl => congrArg some (if_neg hl)⟩
  · have hzero : addressOf link = 0 ↔ link.toNat * 8 % 0x80000 = 0 := by
      have := link.isLt
      rw [addressOf_eq_zero, ← BitVec.toNat_inj]
      change link.toNat = 0 ↔ _
      omega
    rw [← addressOf_eq]
    exact ⟨fun h => if_neg (mt hzero.1 h), fun h => if_pos (hzero.2 h)⟩
  · refine congrArg Host.Outcome.next ((loopGuard_eq s).trans ?_)
    rw [List.append_assoc]
    rfl

end Machine
end Sys2Proof
end

section
/-! The Running flag: which inputs of the environment start the processor, and which stop it (42_command_processor.md rule
R220). -/

namespace Sys2Proof.Machine

/-! ### Bus accesses -/

theorem takeInput_running (s : State) :
    s.takeInput.ctx = s.ctx ∧ s.takeInput.reg1 = s.reg1 ∧ s.takeInput.timing = s.timing := by
  unfold State.takeInput
  split
  · exact ⟨rfl, rfl, rfl⟩
  · exact ⟨rfl, rfl, rfl⟩

theorem busRead_ctx (s : State) (r : Region) (a : Nat) (w : Width) : (busRead s r a w).ctx = s.ctx := by
  obtain ⟨records, x, h⟩ := busRead_eq s r a w
  rw [h]

theorem reg2Write_ctx (s : State) (a : Nat) (v : Word) : (reg2Write s a v).ctx = s.ctx := by
  unfold reg2Write
  split
  · rfl
  · rfl

theorem memWrite8_ctx (s : State) (r : Region) (a : Nat) (v : Byte) : (memWrite8 s r a v).ctx = s.ctx := by
  unfold memWrite8
  split
  · rfl
  · rfl

theorem memWrite16_ctx (s : State) {r : Region} (hr : r ≠ .reg1) (a : Nat) (v : Word) :
    (memWrite16 s r a v).ctx = s.ctx := by
  unfold memWrite16
  split
  · rfl
  · cases r with
    | reg1 => exact absurd rfl hr
    | reg2 => exact reg2Write_ctx s a v
    | vram1 => rfl
    | fb => rfl
    | vram2 => rfl
    | cram => rfl

/-- Only a write to the registers of the sprite processor touches the RenderContext. -/
theorem busWrite_ctx (s : State) {r : Region} (hr : r ≠ .reg1) (a : Nat) (w : Width) (v : Long) :
    (busWrite s r a w v).ctx = s.ctx := by
  cases w with
  | byte => exact memWrite8_ctx s r a _
  | word => exact memWrite16_ctx s hr a _
  | long => exact (memWrite16_ctx _ hr (a + 2) _).trans (memWrite16_ctx s hr a _)

/-- From one state to another the processor does not stop. -/
def State.KeepsRunning (s t : State) : Prop := s.ctx.rendering = true → t.ctx.rendering = true

theorem State.KeepsRunning.of_ctx_eq {s t : State} (h : t.ctx = s.ctx) : s.KeepsRunning t := fun hr => h ▸ hr

theorem keepsRunning_writePtmr (s : State) (v : Word) : s.KeepsRunning (writePtmr s v) := by
  by_cases h : v.extractLsb' 0 2 = 1#2
  · rw [writePtmr_of_eq_one h]
    exact fun _ => rfl
  · rw [writePtmr_of_ne_one h]
    exact .of_ctx_eq rfl

theorem keepsRunning_reg1Write (s : State) (a : Nat) (v : Word) : s.KeepsRunning (reg1Write s a v) := by
  unfold reg1Write
  split
  · exact .of_ctx_eq rfl
  · exact .of_ctx_eq rfl
  · exact keepsRunning_writePtmr s v
  · exact .of_ctx_eq rfl
  · exact .of_ctx_eq rfl
  · exact .of_ctx_eq rfl
  · exact .of_ctx_eq rfl

theorem keepsRunning_memWrite16_reg1 (s : State) (a : Nat) (v : Word) : s.KeepsRunning (memWrite16 s .reg1 a v) := by
  unfold memWrite16
  split
  · exact .of_ctx_eq rfl
  · exact keepsRunning_reg1Write s a v

theorem keepsRunning_busWrite_reg1 (s : State) (a : Nat) (w : Width) (v : Long) :
    s.KeepsRunning (busWrite s .reg1 a w v) := by
  cases w with
  | byte => exact .of_ctx_eq (memWrite8_ctx s .reg1 a (v.extractLsb' 0 8))
  | word => exact keepsRunning_memWrite16_reg1 s a _
  | long => exact fun h => keepsRunning_memWrite16_reg1 _ (a + 2) _ (keepsRunning_memWrite16_reg1 s a _ h)

/-! ### Phase events -/

theorem enterHActive_ctx {s t : State} (e : enterHActive s = .next t) : t.ctx = s.ctx := by
  unfold enterHActive at e
  split at e
  · rw [frameInit_if] at e
    rcases renderScanline_eq_next.1 e with ⟨-, rfl⟩ | ⟨-, -, -, rfl⟩
    · rfl
    · rfl
  · rw [eq_of_next e]

theorem enterHRightBorder_ctx (s : State) : (enterHRightBorder s).ctx = s.ctx := by
  unfold enterHRightBorder
  split
  · rfl
  · rfl

theorem eraseIfConfigured_ctx {s t : State} (e : eraseIfConfigured s = .next t) : t.ctx = s.ctx := by
  unfold eraseIfConfigured at e
  split at e
  · rw [(eraseActive_eq_next.1 e).2]; rfl
  · rw [eq_of_next e]

theorem verticalTransition_ctx {s t : State} (e : verticalTransition s = .next t) : t.ctx = s.ctx := by
  rcases verticalTransition_cases e with rfl | h | rfl | rfl | rfl | rfl
  · rfl
  · obtain ⟨u, herase, hframe⟩ := andThen_eq_next.1 h
    rw [eq_of_next hframe]
    exact eraseIfConfigured_ctx (s := (s.inVPhase .bottomBorder).trigger .vblankStart) (t := u) herase
  · rfl
  · unfold enterVTopBorder
    split
    · rfl
    · rfl
  · rfl
  · rfl

theorem enterHLastDot_ctx {s t : State} (e : enterHLastDot s = .next t) : t.ctx = s.ctx := by
  obtain ⟨u, hv, hp⟩ := andThen_eq_next.1 e
  have hu : u.ctx = s.ctx := verticalTransition_ctx (s := s.countLine) hv
  rw [eq_of_next hp, ← hu]
  unfold peripheralCheck
  split
  · rfl
  · rfl

/-- Entering `HVBlankOut` keeps the RenderContext, unless the swap of the last line begins a frame (41_framebuffer.md rule
R205). -/
theorem enterHVBlankOut_ctx {s t : State} (e : enterHVBlankOut s = .next t) :
    t.ctx = s.ctx ∨ (t.ctx.rendering = true ∧ s.timing.vphase = .lastLine ∧ s.reg1.plotTrigger = 2) := by
  unfold enterHVBlankOut at e
  split at e
  · next h =>
    obtain ⟨ha, -⟩ := swap_eq_next.1 e
    rw [swap_admitted_eq ha] at e
    rw [eq_of_next e]
    dsimp only
    split
    · next hp => exact .inr ⟨rfl, h.1, hp⟩
    · exact .inl rfl
  · exact .inl (by rw [eq_of_next e])

theorem phaseEvent_ctx {s t : State} (e : phaseEvent s = .next t) :
    t.ctx = s.ctx ∨ (t.ctx.rendering = true ∧ s.timing.vphase = .lastLine ∧ s.reg1.plotTrigger = 2) := by
  obtain ⟨u, he, rfl⟩ := phaseEvent_eq_next.1 e
  change u.ctx = s.nextPhase.ctx ∨
    (u.ctx.rendering = true ∧ s.nextPhase.timing.vphase = .lastLine ∧ s.nextPhase.reg1.plotTrigger = 2)
  cases hn : nextHPhase s.timing.hphase <;> rw [hn] at he
  case active => exact .inl (enterHActive_ctx he)
  case rightBorder => exact .inl (eq_of_next he ▸ enterHRightBorder_ctx s.nextPhase)
  case sync => exact .inl (by rw [eq_of_next he])
  case vblankOut => exact enterHVBlankOut_ctx he
  case leftBorder => exact .inl (by rw [eq_of_next he])
  case lastDot => exact .inl (enterHLastDot_ctx he)

/-! ### Commands and resets -/

theorem processCommands_idle {s : State} (h : s.ctx.rendering = false) (n : Nat) : processCommands n s = .next s := by
  cases n with
  | zero => rfl
  | succ n => exact if_neg (by rw [h]; exact Bool.false_ne_true)

theorem logicReset_rendering {s t : State} (e : logicReset s = .next t) : t.ctx.rendering = false := by
  rw [logicReset_eq] at e
  rw [eq_of_next e]
  rfl

/-- The inputs that can start the processor, from the state they find. -/
def State.StartsBy (s : State) (i : Input) : Prop :=
  (∃ a w v, i = .busWrite .reg1 a w v) ∨
    ∃ h, i = .phaseEvent h ∧ s.timing.vphase = .lastLine ∧ s.reg1.plotTrigger = 2

/-- The inputs that can stop the processor. -/
def StopsProcessor (i : Input) : Prop := (∃ n, i = .commands n) ∨ i = .hardReset ∨ i = .softReset

/-- Serving an input leaves the Running flag alone, sets it by one that can start, or clears it by one that can stop. -/
theorem serve_rendering_cases {s t : State} {i : Input} (e : serve i s = .next t) :
    t.ctx.rendering = s.ctx.rendering ∨ (t.ctx.rendering = true ∧ s.StartsBy i) ∨
      (t.ctx.rendering = false ∧ StopsProcessor i) := by
  have kept (h : t.ctx = s.ctx) : t.ctx.rendering = s.ctx.rendering := congrArg RenderContext.rendering h
  cases i with
  | busRead r a w => exact .inl (kept (eq_of_next e ▸ busRead_ctx s r a w))
  | busWrite r a w v =>
    by_cases hr : r = .reg1
    · subst hr
      have hrun : s.KeepsRunning t := eq_of_next e ▸ keepsRunning_busWrite_reg1 s a w v
      cases ht : t.ctx.rendering with
      | true => exact .inr (.inl ⟨rfl, .inl ⟨a, w, v, rfl⟩⟩)
      | false => exact .inl (Bool.eq_false_of_not_eq_true fun hs => by simp [hrun hs] at ht).symm
    · exact .inl (kept (eq_of_next e ▸ busWrite_ctx s hr a w v))
  | phaseEvent hd =>
    rcases phaseEvent_ctx (serve_phaseEvent s hd ▸ e) with h | ⟨ht, hline, hplot⟩
    · exact .inl (kept h)
    · exact .inr (.inl ⟨ht, .inr ⟨hd, rfl, hline, hplot⟩⟩)
  | commands n =>
    cases hs : s.ctx.rendering with
    | false =>
      have hidle : processCommands n s = .next t := e
      rw [processCommands_idle hs] at hidle
      exact .inl (eq_of_next hidle ▸ hs)
    | true =>
      cases ht : t.ctx.rendering with
      | true => exact .inl rfl
      | false => exact .inr (.inr ⟨rfl, .inl ⟨n, rfl⟩⟩)
  | hardReset =>
    exact .inr (.inr ⟨logicReset_rendering (s := { s with mem := resetArena s.params }) e, .inr (.inl rfl)⟩)
  | softReset => exact .inr (.inr ⟨logicReset_rendering e, .inr (.inr rfl)⟩)
  | dump r => exact .inl (kept (by rw [eq_of_next e]; rfl))

/-- Settles O59: taking an input keeps the flag, and serving it changes the flag only as the input can. -/
theorem renderingChangesOnlyAsStated : Obligations.RenderingChangesOnlyAsStated := by
  unfold Obligations.RenderingChangesOnlyAsStated
  intro s t e
  obtain ⟨hctx, hreg, htim⟩ := takeInput_running s
  have hcases := serve_rendering_cases e
  rw [State.StartsBy, hctx, hreg, htim] at hcases
  refine ⟨fun hs ht => ?_, fun hs ht => ?_⟩
  · rcases hcases with h | ⟨-, h⟩ | ⟨h, -⟩
    · simp [hs, ht] at h
    · exact h
    · simp [ht] at h
  · rcases hcases with h | ⟨h, -⟩ | ⟨-, h⟩
    · simp [hs, ht] at h
    · simp [ht] at h
    · exact h

end Sys2Proof.Machine
end

section
/-! The draw commands: the plots of lines and quads point by point, and what the plots leave in the draw buffer
(42_command_processor.md rules R231 to R250). -/

namespace Sys2Proof.Machine

/-! ### Plots point by point -/

theorem shade_eq (m : Arena) (d : DrawOps) (row n k dmaj : Nat) (v : Word) :
    let g := d.grda.toNat * 8
    shade m d row n k dmaj v =
      if d.pmod.getLsbD 2 then
        Config.gouraud
          { a := m.read16 .vram1 g, b := m.read16 .vram1 (g + 2), c := m.read16 .vram1 (g + 4),
            d := m.read16 .vram1 (g + 6) }
          row n k dmaj v
      else v := by
  rw [shade, gouraudTable, addressOf_toNat]
  rfl

/-- A line plots, for each of its points, the companion and the point (40_rasterizer.md rule R168). -/
theorem linePlots_eq (m : Arena) (d : DrawOps) (row n : Nat) (c1 c2 : Coord) :
    linePlots m d row n c1 c2 =
      (List.range (spanOf c1 c2 + 1)).flatMap fun k =>
        companionThenPoint c1 c2 ((linePoints c1 c2).getD (k - 1) c1) ((linePoints c1 c2).getD k c1)
          (shade m d row n k (spanOf c1 c2) d.colr) := by
  rw [linePlots, lineVisits_eq, flatMap_zipIdx_range]
  refine flatMap_congr_mem fun k hk => ?_
  rw [LineStepper.iterate_new_dmaj, pointPlots_iterate c1 c2 (List.mem_range.1 hk)]

/-- Row `j` of a quad is what its two edges hold after `j` steps. -/
theorem quadRows_getD (a b c d : Coord) (p : Coord × Coord) {j : Nat} (h : j < quadSpan a b c d + 1) :
    (quadRows a b c d).getD j p =
      ((QuadStepper.advance^[j] (QuadStepper.new a b c d)).left.coord,
        (QuadStepper.advance^[j] (QuadStepper.new a b c d)).right.coord) := by
  rw [List.getD_eq_getElem?_getD, quadRows_getElem? a b c d h]
  rfl

theorem QuadStepper.iterate_new_n (a b c d : Coord) (j : Nat) :
    (QuadStepper.advance^[j] (QuadStepper.new a b c d)).n = quadSpan a b c d := QuadStepper.iterate_n _ j

/-- A quad plots each of its rows as a line (42_command_processor.md rule R238). -/
theorem quadPlots_eq (m : Arena) (d : DrawOps) (q : Corners) :
    quadPlots m d q =
      (List.range (quadSpan q.a q.b q.c q.d + 1)).flatMap fun j =>
        linePlots m d j (quadSpan q.a q.b q.c q.d) ((quadRows q.a q.b q.c q.d).getD j (q.a, q.b)).1
          ((quadRows q.a q.b q.c q.d).getD j (q.a, q.b)).2 := by
  rw [quadPlots, quadVisits_eq, flatMap_zipIdx_range]
  refine flatMap_congr_mem fun j hj => ?_
  rw [quadRows_getD _ _ _ _ _ (List.mem_range.1 hj), QuadStepper.iterate_new_n]

/-- The texture index at step `k` of `n` steps along `size` texels, from the one end or the other (40_rasterizer.md rules
R172, R173, R178). -/
def texelIndex (size n k : Nat) (flip : Bool) : Int :=
  if flip then (size : Int) - 1 - (k * (size * 0x10000 / (n + 1)) / 0x10000 : Nat)
  else (k * (size * 0x10000 / (n + 1)) / 0x10000 : Nat)

/-- A textured row plots, for each point of its line, its own texel with the companion, unless the texel is transparent
(42_command_processor.md rule R238). -/
theorem texRowPlots_eq (m : Arena) (d : DrawOps) (x : Texture) (row n : Nat) (hflip : Bool) (l r : Coord) (v : Int) :
    texRowPlots m d x row n hflip l r v =
      if x.width = 0 then []
      else
        (List.range (spanOf l r + 1)).flatMap fun k =>
          if (fetchTexel m x (texelIndex x.width (spanOf l r) k hflip) v).transparent d.pmod then []
          else
            companionThenPoint l r ((linePoints l r).getD (k - 1) l) ((linePoints l r).getD k l)
              (shade m d row n k (spanOf l r) (fetchTexel m x (texelIndex x.width (spanOf l r) k hflip) v).value) := by
  split
  · next hw => exact texRowPlots_empty m hw row n hflip l r v
  · next hw =>
    have hfetch := texRowPlotsFrom_iterate m d x row n v (TexLineStepper.new l r x.width hflip) rfl
      (spanOf l r + 1) 0 none fun h => absurd h (Nat.lt_irrefl 0)
    simp only [Nat.zero_add] at hfetch
    rw [texRowPlots, texLineVisits_eq, if_neg hw, hfetch]
    refine flatMap_congr_mem fun k hk => ?_
    have hu : (TexLineStepper.advance^[k] (TexLineStepper.new l r x.width hflip)).u =
        texelIndex x.width (spanOf l r) k hflip := TexLineStepper.iterate_u l r x.width hflip k
    have hline : (TexLineStepper.new l r x.width hflip).line = LineStepper.new l r := if_neg hw
    simp only [hu, TexLineStepper.iterate_line, hline, LineStepper.iterate_new_dmaj,
      pointPlots_iterate l r (List.mem_range.1 hk)]

/-- A textured quad plots each of its rows with one row of the texture (42_command_processor.md rule R238). -/
theorem texQuadPlots_eq (m : Arena) (d : DrawOps) (x : Texture) (hflip vflip : Bool) (q : Corners) :
    texQuadPlots m d x hflip vflip q =
      if x.height = 0 then []
      else
        (List.range (quadSpan q.a q.b q.c q.d + 1)).flatMap fun j =>
          texRowPlots m d x j (quadSpan q.a q.b q.c q.d) hflip ((quadRows q.a q.b q.c q.d).getD j (q.a, q.b)).1
            ((quadRows q.a q.b q.c q.d).getD j (q.a, q.b)).2
            (texelIndex x.height (quadSpan q.a q.b q.c q.d) j vflip) := by
  split
  · next hh => exact texQuadPlots_empty m hh hflip vflip q
  · next hh =>
    rw [texQuadPlots, texQuadVisits_eq, if_neg hh, flatMap_zipIdx_range]
    refine flatMap_congr_mem fun j hj => ?_
    have hv : (TexQuadStepper.advance^[j] (TexQuadStepper.new q.a q.b q.c q.d x.height vflip)).v =
        texelIndex x.height (quadSpan q.a q.b q.c q.d) j vflip := TexQuadStepper.iterate_v ..
    have hquad : (TexQuadStepper.new q.a q.b q.c q.d x.height vflip).quad = QuadStepper.new q.a q.b q.c q.d := if_neg hh
    simp only [hv, TexQuadStepper.iterate_quad, hquad, QuadStepper.iterate_new_n,
      quadRows_getD _ _ _ _ _ (List.mem_range.1 hj)]

theorem textureOf_eq (d : DrawOps) (t : TexOps) :
    textureOf d t =
      { base := t.srca.toNat * 8, width := t.width.toNat, height := t.height.toNat, mode := d.pmod.toNat / 8 % 8,
        bank := d.colr } := by
  rw [textureOf, addressOf_toNat, pmodCM_eq]

/-! ### What the plots leave -/

theorem State.writesOf_append (s : State) (pmod : Word) (ps qs : List Plot) :
    s.writesOf pmod (ps ++ qs) = s.writesOf pmod ps ++ s.writesOf pmod qs := by
  simp only [State.writesOf, List.filter_append, List.map_append]

/-- Plots that a test withholds write nothing. -/
theorem State.writesOf_ite (s : State) (pmod : Word) (c : Prop) [Decidable c] (ps : List Plot) :
    s.writesOf pmod (if c then [] else ps) = if c then [] else s.writesOf pmod ps := by
  split
  · rfl
  · rfl

/-- A command that counts, logs and writes even offsets of the draw buffer has drawn only. -/
theorem State.drewOnly_writeWords (s : State) (records : List DiagRecord) (ws : List (Nat × Word))
    (hws : ∀ w ∈ ws, w.1 < Config.fbBytes ∧ w.1 % 2 = 0) :
    s.drewOnly
      { s with
        ctx := { s.ctx with drawCalls := s.ctx.drawCalls + 1 }
        diag := s.diag ++ records
        mem := s.mem.writeWords s.drawBuffer ws }
      records ws := by
  have hsize : s.drawBuffer.size = Config.fbBytes := size_fbOf s.fbc.drawIndex
  refine ⟨rfl, fun x y _ => ?_, fun a ha hun => ?_, fun id a hid => Arena.writeWords_read8_other hid ws a s.mem⟩
  · exact Arena.writeWords_read16 _ _ _ _ (hsize ▸ fbOff_lt x y) (fbOff_even x y) (hsize ▸ hws)
  · refine Arena.writeWords_read8_untouched _ _ _ (hsize ▸ ha) (fun w hw => ?_) hun s.mem
    obtain ⟨hlt, heven⟩ := hws w hw
    rw [hsize]
    unfold Config.fbBytes at hlt ⊢
    omega

theorem drawSolid_drewOnly {s : State} (h : s.spriteAdmitted = true) (pmod : Word) (ps : List Plot) :
    ∃ u, drawSolid pmod ps s = .next u ∧ s.drewOnly u (drawRecords false pmod s) (s.writesOf pmod ps) := by
  have hrec : drawRecords false pmod s = prologueRecords s pmod := List.append_nil _
  rw [hrec]
  exact ⟨_, drawSolid_admitted h pmod ps, s.drewOnly_writeWords _ _ (s.writesOf_inside pmod ps)⟩

/-- The plots of a textured command: those of its quad, none in colour modes 6 and 7 (42_command_processor.md rule
R236). -/
def texturedCommandPlots (d : DrawOps) (t : TexOps) (q : Corners) (s : State) : List Plot :=
  if 6 ≤ pmodCM d.pmod then [] else texturedPlots d t q s

theorem drawTextured_drewOnly {s : State} (h : s.spriteAdmitted = true) (d : DrawOps) (t : TexOps) (q : Corners) :
    ∃ u, drawTextured d t q s = .next u ∧
      s.drewOnly u (drawRecords true d.pmod s) (s.writesOf d.pmod (texturedCommandPlots d t q s)) := by
  rw [drawTextured_admitted h, texturedCommandPlots]
  by_cases hm : 6 ≤ pmodCM d.pmod
  · have hrec : drawRecords true d.pmod s =
        prologueRecords s d.pmod ++ [.unhandledCommand s.ctx.cmdAddr s.ctrlAtCmd d.pmod] := by
      simp [drawRecords, prologueRecords, hm]
    rw [if_pos hm, if_pos hm, hrec, List.append_assoc]
    exact ⟨_, rfl, s.drewOnly_writeWords _ [] (fun _ hw => by cases hw)⟩
  · have hrec : drawRecords true d.pmod s = prologueRecords s d.pmod := by
      simp [drawRecords, prologueRecords, hm]
    rw [if_neg hm, if_neg hm, hrec]
    exact ⟨_, rfl, s.drewOnly_writeWords _ _ (s.writesOf_inside d.pmod _)⟩

/-- Settles O15: a line plots its points with their companions, a quad its rows; and each untextured command is a solid
draw of such plots. -/
theorem untexturedCommandsDrawTheirLines : Obligations.UntexturedCommandsDrawTheirLines := by
  unfold Obligations.UntexturedCommandsDrawTheirLines
  refine ⟨shade_eq, linePlots_eq, quadPlots_eq,
    fun d s h => ⟨fun va vb vc vd => ?_, fun va vb vc vd => ?_, fun va vb => ?_⟩⟩
  · have hdraw := drawSolid_drewOnly h d.pmod (polyPlots d (vertexCorners va vb vc vd s) s)
    rwa [polyPlots, State.writesOf_ite] at hdraw
  · have hdraw := drawSolid_drewOnly h d.pmod (polylinePlots d (vertexCorners va vb vc vd s) s)
    rwa [polylinePlots, State.writesOf_ite, State.writesOf_append, State.writesOf_append, State.writesOf_append]
      at hdraw
  · have hdraw := drawSolid_drewOnly h d.pmod (singleLinePlots d (s.position va) (s.position vb) s)
    rwa [singleLinePlots, State.writesOf_ite] at hdraw

/-! ### Scaled sprites -/

/-- The two ends of a scaled sprite on one axis, from the number of its zoom point and that of the axis' field
(42_command_processor.md rule R242). -/
def scaledEnds (z field : Nat) (a b c : Int) : Int × Int :=
  (if z ≠ 0 ∧ field = 2 then a - b / 2 else if z ≠ 0 ∧ field = 3 then a - b else a,
    if z = 0 then c else if field = 2 then a + (b + 1) / 2 else if field = 3 then a else a + b)

theorem scaledEnds_zero (field : Nat) (a b c : Int) : scaledEnds 0 field a b c = (a, c) := by simp [scaledEnds]

theorem scaledEnds_zoom {z : Nat} (hz : z ≠ 0) (zoom : BitVec 2) (a b c : Int) :
    scaledEnds z zoom.toNat a b c = zoomEnds zoom a b := by
  simp only [scaledEnds, zoomEnds, hz, ne_eq, not_false_eq_true, true_and, if_false]
  have hlt := zoom.isLt
  generalize zoom.toNat = field at hlt
  interval_cases field <;> rfl

theorem scaledX_eq (zp : BitVec 4) (va vb vc : Vertex) :
    scaledX zp va vb vc = scaledEnds zp.toNat (zp.toNat % 4) va.x.toInt vb.x.toInt vc.x.toInt := by
  unfold scaledX
  split
  · next h => rw [h]; exact (scaledEnds_zero ..).symm
  · next h =>
    have hfield : zp.toNat % 4 = (zp.extractLsb' 0 2).toNat := by
      rw [toNat_extractLsb'_eq, Nat.pow_zero, Nat.div_one]
      rfl
    rw [hfield, scaledEnds_zoom (fun hz => h (BitVec.eq_of_toNat_eq hz))]

theorem scaledY_eq (zp : BitVec 4) (va vb vc : Vertex) :
    scaledY zp va vb vc = scaledEnds zp.toNat (zp.toNat / 4) va.y.toInt vb.y.toInt vc.y.toInt := by
  unfold scaledY
  split
  · next h => rw [h]; exact (scaledEnds_zero ..).symm
  · next h =>
    have hfield : zp.toNat / 4 = (zp.extractLsb' 2 2).toNat := by
      have := zp.isLt
      rw [toNat_extractLsb'_eq]
      omega
    rw [hfield, scaledEnds_zoom (fun hz => h (BitVec.eq_of_toNat_eq hz))]

/-- Settles O14: a textured row plots its points each with its own texel, a textured quad its rows; and each textured
command is a textured draw of the quad of its corners. -/
theorem texturedCommandsDrawTheirQuad : Obligations.TexturedCommandsDrawTheirQuad := by
  unfold Obligations.TexturedCommandsDrawTheirQuad
  refine ⟨texRowPlots_eq, texQuadPlots_eq, fun d t q s => ?_,
    fun d t s h => ⟨fun va => ?_, fun zp va vb vc => ?_, fun va vb vc vd => ?_⟩⟩
  · rw [texturedPlots, textureOf_eq]
    rfl
  · have hdraw := drawTextured_drewOnly h d t (normalCorners t va s)
    rwa [texturedCommandPlots, State.writesOf_ite] at hdraw
  · obtain ⟨u, hu, hdraw⟩ := drawTextured_drewOnly h d t (scaledCorners zp va vb vc s)
    rw [texturedCommandPlots, State.writesOf_ite, scaledCorners, scaledX_eq, scaledY_eq] at hdraw
    exact ⟨u, hu, hdraw⟩
  · have hdraw := drawTextured_drewOnly h d t (vertexCorners va vb vc vd s)
    rwa [texturedCommandPlots, State.writesOf_ite] at hdraw

end Sys2Proof.Machine
end

section
/-! The pixels of a draw command: a changed pixel was plotted, inside the clip, with the plot's value; and the plots of a
primitive stay in the bounding box of its corners, so that a rejected one plots nothing (42_command_processor.md rules
R233 to R235). -/

namespace Sys2Proof.Machine

/-! ### Changed pixels -/

/-- The plots of a draw command; none for any other instruction. -/
def plotsOf (s : State) : Instr → List Plot
  | .nspr d t va => texturedCommandPlots d t (normalCorners t va s) s
  | .sspr d t zp va vb vc => texturedCommandPlots d t (scaledCorners zp va vb vc s) s
  | .dspr d t va vb vc vd => texturedCommandPlots d t (vertexCorners va vb vc vd s) s
  | .poly d va vb vc vd => polyPlots d (vertexCorners va vb vc vd s) s
  | .plin d va vb vc vd => polylinePlots d (vertexCorners va vb vc vd s) s
  | .line d va vb => singleLinePlots d (s.position va) (s.position vb) s
  | _ => []

theorem exec_drewOnly {i : Instr} {s : State} (hi : drawsPixels i = true) (h : s.spriteAdmitted = true) :
    ∃ u, exec i s = .next u ∧ ∃ records, s.drewOnly u records (s.writesOf (pmodOf i) (plotsOf s i)) := by
  have textured (d : DrawOps) (t : TexOps) (q : Corners) : ∃ u, drawTextured d t q s = .next u ∧
      ∃ records, s.drewOnly u records (s.writesOf d.pmod (texturedCommandPlots d t q s)) := by
    obtain ⟨u, hu, hdraw⟩ := drawTextured_drewOnly h d t q
    exact ⟨u, hu, _, hdraw⟩
  have solid (pmod : Word) (ps : List Plot) : ∃ u, drawSolid pmod ps s = .next u ∧
      ∃ records, s.drewOnly u records (s.writesOf pmod ps) := by
    obtain ⟨u, hu, hdraw⟩ := drawSolid_drewOnly h pmod ps
    exact ⟨u, hu, _, hdraw⟩
  cases i with
  | nspr d t va => exact textured d t _
  | sspr d t zp va vb vc => exact textured d t _
  | dspr d t va vb vc vd => exact textured d t _
  | poly d va vb vc vd => exact solid d.pmod _
  | plin d va vb vc vd => exact solid d.pmod _
  | line d va vb => exact solid d.pmod _
  | _ => cases hi

/-- An operation that answers a next state found an admitted sprite mode. -/
theorem spriteAdmitted_of_exec {i : Instr} {s t : State} (hi : i.isJump = false) (e : exec i s = .next t) :
    s.spriteAdmitted = true := by
  by_contra h
  rw [exec_refused hi (Bool.eq_false_of_not_eq_true h)] at e
  cases e

theorem isJump_of_drawsPixels {i : Instr} (h : drawsPixels i = true) : i.isJump = false := by
  cases i with
  | jumpNext => cases h
  | jumpAssign link => cases h
  | jumpAssignZero => cases h
  | jumpCall link => cases h
  | jumpReturn => cases h
  | _ => rfl

theorem mem_of_lastWrite {ws : List (Nat × Word)} {o : Nat} {v : Word} (h : lastWrite ws o = some v) : (o, v) ∈ ws := by
  obtain ⟨w, hw, rfl⟩ := Option.map_eq_some_iff.1 h
  have ho : w.1 = o := by simpa using List.find?_some hw
  exact ho ▸ List.mem_reverse.1 (List.mem_of_find?_eq_some hw)

/-- A pixel is kept by a draw command or holds the value of a visible plot at its offset. -/
theorem pixel_of_draw {i : Instr} {s t : State} {x y : Nat} (hi : drawsPixels i = true) (e : exec i s = .next t)
    (h : onScreen x y) :
    t.mem.pixel s.drawBuffer x y = s.mem.pixel s.drawBuffer x y ∨
      ∃ p ∈ plotsOf s i, s.ctx.visible (pmodOf i) p.x p.y = true ∧ fbOff p.x p.y = fbOff x y ∧
        t.mem.pixel s.drawBuffer x y = p.v := by
  obtain ⟨u, hu, records, -, hpix, -, -⟩ := exec_drewOnly hi (spriteAdmitted_of_exec (isJump_of_drawsPixels hi) e)
  rw [hu, Host.Outcome.next.injEq] at e
  subst e
  rw [hpix x y h]
  cases hw : lastWrite (s.writesOf (pmodOf i) (plotsOf s i)) (fbOff x y) with
  | none => exact .inl rfl
  | some v =>
    have hmem := mem_of_lastWrite hw
    simp only [State.writesOf, List.mem_map, List.mem_filter, Prod.mk.injEq] at hmem
    obtain ⟨p, ⟨hp, hv⟩, ho, rfl⟩ := hmem
    exact .inr ⟨p, hp, hv, ho, rfl⟩

/-! ### The colour of untextured plots -/

/-- The plots of a point have its value, and stand at its coordinates or those of the point before. -/
theorem mem_companionThenPoint {c1 c2 prev p : Coord} {v : Word} {r : Plot}
    (h : r ∈ companionThenPoint c1 c2 prev p v) :
    r.v = v ∧ (r.x = p.x ∨ r.x = prev.x) ∧ (r.y = p.y ∨ r.y = prev.y) := by
  unfold companionThenPoint at h
  split at h <;> split at h <;> simp only [List.mem_cons, List.not_mem_nil, or_false] at h
  · subst h; simp
  · rcases h with rfl | rfl <;> simp
  · subst h; simp
  · rcases h with rfl | rfl <;> simp

section
variable {d : DrawOps} (hg : pmodGour d.pmod = false)
include hg

theorem linePlots_v {m : Arena} {row n : Nat} {c1 c2 : Coord} {p : Plot} (h : p ∈ linePlots m d row n c1 c2) :
    p.v = d.colr := by
  rw [linePlots_eq, List.mem_flatMap] at h
  obtain ⟨k, -, hp⟩ := h
  rw [(mem_companionThenPoint hp).1, shade, hg]
  rfl

theorem polyPlots_v {q : Corners} {s : State} {p : Plot} (h : p ∈ polyPlots d q s) : p.v = d.colr := by
  unfold polyPlots at h
  split at h
  · cases h
  · rw [quadPlots_eq, List.mem_flatMap] at h
    obtain ⟨j, -, hp⟩ := h
    exact linePlots_v hg hp

theorem polylinePlots_v {q : Corners} {s : State} {p : Plot} (h : p ∈ polylinePlots d q s) : p.v = d.colr := by
  unfold polylinePlots at h
  split at h
  · cases h
  · simp only [List.mem_append] at h
    rcases h with ((h | h) | h) | h <;> exact linePlots_v hg h

theorem singleLinePlots_v {a b : Coord} {s : State} {p : Plot} (h : p ∈ singleLinePlots d a b s) : p.v = d.colr := by
  unfold singleLinePlots at h
  split at h
  · cases h
  · exact linePlots_v hg h
end

/-- Settles O16: a changed pixel holds the value of a plot, and without GOUR every plot of a line is of COLR. -/
theorem untexturedPixelsTakeTheColour : Obligations.UntexturedPixelsTakeTheColour := by
  unfold Obligations.UntexturedPixelsTakeTheColour
  rintro d s t i x y hg (⟨va, vb, vc, vd, rfl⟩ | ⟨va, vb, vc, vd, rfl⟩ | ⟨va, vb, rfl⟩) e h
  · rcases pixel_of_draw rfl e h with hkept | ⟨p, hp, -, -, hv⟩
    · exact .inr hkept
    · exact .inl (hv.trans (polyPlots_v hg hp))
  · rcases pixel_of_draw rfl e h with hkept | ⟨p, hp, -, -, hv⟩
    · exact .inr hkept
    · exact .inl (hv.trans (polylinePlots_v hg hp))
  · rcases pixel_of_draw rfl e h with hkept | ⟨p, hp, -, -, hv⟩
    · exact .inr hkept
    · exact .inl (hv.trans (singleLinePlots_v hg hp))

/-! ### The clip tests -/

theorem inUserClip_iff (c : RenderContext) (x y : Int) :
    c.inUserClip x y = true ↔
      (c.userClipX0.toNat : Int) ≤ x ∧ x ≤ c.userClipX1.toNat ∧ (c.userClipY0.toNat : Int) ≤ y ∧
        y ≤ c.userClipY1.toNat := by
  simp only [RenderContext.inUserClip, Bool.and_eq_true, decide_eq_true_eq, and_assoc]

/-- A position is visible when it lies in the system clip and, with CLIP set, on the side of the user clip that CMOD
says (42_command_processor.md rule R233). -/
theorem visible_iff (c : RenderContext) (pmod : Word) (x y : Int) :
    c.visible pmod x y = true ↔
      (0 ≤ x ∧ x ≤ c.sysClipH.toNat ∧ 0 ≤ y ∧ y ≤ c.sysClipV.toNat) ∧
        (pmodClip pmod = true → (pmodOutside pmod = false ↔ c.inUserClip x y = true)) := by
  simp only [RenderContext.visible, RenderContext.inSystemClip, Bool.and_eq_true, decide_eq_true_eq, and_assoc]
  cases pmodClip pmod <;> cases pmodOutside pmod <;> simp

/-- Settles O17: a changed pixel was plotted at a visible position, and with the system clip inside the framebuffer that
position is the pixel. -/
theorem drawsOnlyInsideTheClip : Obligations.DrawsOnlyInsideTheClip := by
  unfold Obligations.DrawsOnlyInsideTheClip
  intro i s t x y hi hH hV e h hne
  rcases pixel_of_draw hi e h with hkept | ⟨p, -, hv, ho, -⟩
  · exact absurd hkept hne
  · obtain ⟨a, b, hx, hy, hab⟩ := onScreen_of_visible hH hV hv
    rw [hx, hy] at ho hv
    obtain ⟨rfl, rfl⟩ := fbOff_injective hab h ho
    obtain ⟨⟨-, hxH, -, hyV⟩, huser⟩ := (visible_iff s.ctx _ _ _).1 hv
    refine ⟨Int.ofNat_le.1 hxH, Int.ofNat_le.1 hyV, fun hclip => (huser hclip).trans ?_⟩
    simp only [inUserClip_iff, Int.ofNat_le]

/-! ### Bounding boxes -/

/-- A position lies in the bounding box of some corners. -/
structure InBox (ps : List Coord) (r : Coord) : Prop where
  left : ∃ p ∈ ps, p.x ≤ r.x
  right : ∃ p ∈ ps, r.x ≤ p.x
  top : ∃ p ∈ ps, p.y ≤ r.y
  bottom : ∃ p ∈ ps, r.y ≤ p.y

theorem InBox.of_mem {ps : List Coord} {p : Coord} (h : p ∈ ps) : InBox ps p :=
  ⟨⟨p, h, le_rfl⟩, ⟨p, h, le_rfl⟩, ⟨p, h, le_rfl⟩, ⟨p, h, le_rfl⟩⟩

/-- The bounding box of positions of a box lies in that box. -/
theorem InBox.trans {ps qs : List Coord} {r : Coord} (hq : ∀ q ∈ qs, InBox ps q) (h : InBox qs r) : InBox ps r := by
  obtain ⟨⟨a, ha, hal⟩, ⟨b, hb, hbr⟩, ⟨c, hc, hct⟩, ⟨d, hd, hdb⟩⟩ := h
  obtain ⟨a', ha', hal'⟩ := (hq a ha).left
  obtain ⟨b', hb', hbr'⟩ := (hq b hb).right
  obtain ⟨c', hc', hct'⟩ := (hq c hc).top
  obtain ⟨d', hd', hdb'⟩ := (hq d hd).bottom
  exact ⟨⟨a', ha', hal'.trans hal⟩, ⟨b', hb', hbr.trans hbr'⟩, ⟨c', hc', hct'.trans hct⟩, ⟨d', hd', hdb.trans hdb'⟩⟩

theorem InBox.trans_pair {ps : List Coord} {p q r : Coord} (hp : InBox ps p) (hq : InBox ps q) (h : InBox [p, q] r) :
    InBox ps r :=
  .trans (List.forall_mem_cons.2 ⟨hp, List.forall_mem_singleton.2 hq⟩) h

/-- The column of one position of a box and the line of another. -/
theorem InBox.mix {ps : List Coord} {p q : Coord} (hp : InBox ps p) (hq : InBox ps q) : InBox ps ⟨p.x, q.y⟩ :=
  ⟨hp.left, hp.right, hq.top, hq.bottom⟩

/-- A number lies between two others, in either order. -/
def Between (p q r : Int) : Prop := min p q ≤ r ∧ r ≤ max p q

theorem InBox.of_between {p q r : Coord} (hx : Between p.x q.x r.x) (hy : Between p.y q.y r.y) : InBox [p, q] r := by
  simp only [Between, min_le_iff, le_max_iff] at hx hy
  constructor <;> simp only [List.mem_cons, List.not_mem_nil, or_false, exists_eq_or_imp, exists_eq_left]
  · exact hx.1
  · exact hx.2
  · exact hy.1
  · exact hy.2

/-- A position of a box that misses a rectangle is not in the rectangle. -/
theorem not_mem_of_boxMisses_inBox {ps : List Coord} {x0 y0 x1 y1 : Int} {r : Coord}
    (hm : boxMisses ps x0 y0 x1 y1 = true) (h : InBox ps r) : ¬(x0 ≤ r.x ∧ r.x ≤ x1 ∧ y0 ≤ r.y ∧ r.y ≤ y1) := by
  obtain ⟨⟨a, ha, hal⟩, ⟨b, hb, hbr⟩, ⟨c, hc, hct⟩, ⟨d, hd, hdb⟩⟩ := h
  simp only [boxMisses, Bool.or_eq_true, List.all_eq_true, decide_eq_true_eq] at hm
  rcases hm with ((hm | hm) | hm) | hm
  · have := hm b hb; omega
  · have := hm a ha; omega
  · have := hm d hd; omega
  · have := hm c hc; omega

/-- No position of a rejected box passes the clip tests. -/
theorem not_visible_of_rejects_inBox {c : RenderContext} {pmod : Word} {ps : List Coord} {r : Coord}
    (hr : c.rejects pmod ps = true) (h : InBox ps r) : c.visible pmod r.x r.y = false := by
  rw [← Bool.not_eq_true, visible_iff]
  rintro ⟨hsys, huser⟩
  simp only [RenderContext.rejects, Bool.or_eq_true, Bool.and_eq_true, Bool.not_eq_true'] at hr
  rcases hr with hm | ⟨⟨hclip, hout⟩, hm⟩
  · exact not_mem_of_boxMisses_inBox hm h hsys
  · exact not_mem_of_boxMisses_inBox hm h ((inUserClip_iff c r.x r.y).1 ((huser hclip).1 hout))

/-- Every plot of a list lies in a bounding box. -/
def PlotsInBox (ps : List Coord) (plots : List Plot) : Prop := ∀ r ∈ plots, InBox ps ⟨r.x, r.y⟩

theorem PlotsInBox.writesOf_eq_nil {s : State} {pmod : Word} {ps : List Coord} {plots : List Plot}
    (hr : s.ctx.rejects pmod ps = true) (h : PlotsInBox ps plots) : s.writesOf pmod plots = [] := by
  rw [State.writesOf, List.map_eq_nil_iff, List.filter_eq_nil_iff]
  intro r hmem
  rw [Bool.not_eq_true]
  exact not_visible_of_rejects_inBox hr (h r hmem)

theorem PlotsInBox.append {ps : List Coord} {plots plots' : List Plot} (h : PlotsInBox ps plots)
    (h' : PlotsInBox ps plots') : PlotsInBox ps (plots ++ plots') := fun r hr =>
  (List.mem_append.1 hr).elim (h r) (h' r)

theorem PlotsInBox.flatMap {α : Type} {ps : List Coord} {l : List α} {f : α → List Plot}
    (h : ∀ a ∈ l, PlotsInBox ps (f a)) : PlotsInBox ps (l.flatMap f) := by
  intro r hr
  obtain ⟨a, ha, hra⟩ := List.mem_flatMap.1 hr
  exact h a ha r hra

/-! ### The points of a line and of an edge -/

/-- A part of a multiple lies between 0 and the whole. -/
theorem between_zero_mul {n k : Nat} (hk : k ≤ n) (i : Int) : Between 0 (n * i) (k * i) := by
  have hk' : (k : Int) ≤ n := Int.ofNat_le.2 hk
  have hk0 : (0 : Int) ≤ k := Int.natCast_nonneg k
  rcases Int.le_total 0 i with hi | hi
  · exact ⟨min_le_of_left_le (mul_nonneg hk0 hi), le_max_of_le_right (mul_le_mul_of_nonneg_right hk' hi)⟩
  · exact ⟨min_le_of_right_le (mul_le_mul_of_nonpos_right hk' hi),
      le_max_of_le_left (mul_nonpos_of_nonneg_of_nonpos hk0 hi)⟩

/-- A coordinate moved by at most `n` of `n` truncated increments has not passed its goal (40_rasterizer.md rule R170). -/
theorem reach_between {n k : Nat} (hk : k ≤ n) (p q : Int) : Between p q (reach n k p q) := by
  obtain ⟨hpos, hneg⟩ := safeDiv_mul (toFix (q - p)) n
  obtain ⟨hlo, hhi⟩ := between_zero_mul hk (safeDiv (toFix (q - p)) n)
  unfold Between reach
  generalize (n : Int) * safeDiv (toFix (q - p)) n = whole at hpos hneg hlo hhi
  generalize (k : Int) * safeDiv (toFix (q - p)) n = part at hlo hhi ⊢
  unfold toFix at hpos hneg
  unfold fixFloor toFixHalf toFix fixHalf
  rcases Int.le_total p q with h | h
  · obtain ⟨hw0, hw1, -⟩ := hpos (by omega)
    omega
  · obtain ⟨hw0, hw1, -⟩ := hneg (by omega)
    omega

theorem majorAt_between {k : Nat} {p q : Int} (hk : k ≤ (q - p).natAbs) : Between p q (majorAt k p q) := by
  unfold Between majorAt
  split <;> omega

theorem linePoint_inBox {c1 c2 : Coord} {k : Nat} (hk : k ≤ spanOf c1 c2) : InBox [c1, c2] (linePoint c1 c2 k) := by
  have hspan : spanOf c1 c2 = max (c2.x - c1.x).natAbs (c2.y - c1.y).natAbs := rfl
  unfold linePoint
  split
  · exact .of_between (majorAt_between (by omega)) (reach_between hk c1.y c2.y)
  · exact .of_between (reach_between hk c1.x c2.x) (majorAt_between (by omega))

theorem edgePoint_inBox {n k : Nat} (hk : k ≤ n) (p q : Coord) : InBox [p, q] (edgePoint n k p q) :=
  .of_between (reach_between hk p.x q.x) (reach_between hk p.y q.y)

theorem linePoints_getD_inBox {c1 c2 : Coord} {k : Nat} (hk : k ≤ spanOf c1 c2) :
    InBox [c1, c2] ((linePoints c1 c2).getD k c1) := by
  rw [linePoints_getD c1 c2 c1 (Nat.lt_succ_of_le hk), LineStepper.coord_iterate_new]
  exact linePoint_inBox hk

/-! ### The plots of a primitive -/

/-- The plots of a point of a line, companion and all, lie in the box of the line's ends. -/
theorem companionThenPoint_inBox {c1 c2 : Coord} {k : Nat} (hk : k ∈ List.range (spanOf c1 c2 + 1)) (v : Word) :
    PlotsInBox [c1, c2]
      (companionThenPoint c1 c2 ((linePoints c1 c2).getD (k - 1) c1) ((linePoints c1 c2).getD k c1) v) := by
  have hk : k ≤ spanOf c1 c2 := Nat.le_of_lt_succ (List.mem_range.1 hk)
  have hp := linePoints_getD_inBox hk
  have hprev := linePoints_getD_inBox ((Nat.sub_le k 1).trans hk)
  intro r hr
  obtain ⟨-, hx, hy⟩ := mem_companionThenPoint hr
  rcases hx with hx | hx <;> rcases hy with hy | hy <;> rw [hx, hy]
  · exact hp.mix hp
  · exact hp.mix hprev
  · exact hprev.mix hp
  · exact hprev.mix hprev

theorem linePlots_inBox {ps : List Coord} {c1 c2 : Coord} (h1 : InBox ps c1) (h2 : InBox ps c2) (m : Arena)
    (d : DrawOps) (row n : Nat) : PlotsInBox ps (linePlots m d row n c1 c2) := by
  rw [linePlots_eq]
  exact .flatMap fun k hk r hr => h1.trans_pair h2 (companionThenPoint_inBox hk _ r hr)

theorem texRowPlots_inBox {ps : List Coord} {l r : Coord} (hl : InBox ps l) (hr : InBox ps r) (m : Arena) (d : DrawOps)
    (x : Texture) (row n : Nat) (hflip : Bool) (v : Int) : PlotsInBox ps (texRowPlots m d x row n hflip l r v) := by
  rw [texRowPlots_eq]
  split
  · exact nofun
  · refine .flatMap fun k hk => ?_
    split
    · exact nofun
    · exact fun p hp => hl.trans_pair hr (companionThenPoint_inBox hk _ p hp)

/-- The ends of a row of a quad lie in the box of its corners. -/
theorem quadRows_inBox (q : Corners) {j : Nat} (hj : j ∈ List.range (quadSpan q.a q.b q.c q.d + 1)) :
    InBox q.list ((quadRows q.a q.b q.c q.d).getD j (q.a, q.b)).1 ∧
      InBox q.list ((quadRows q.a q.b q.c q.d).getD j (q.a, q.b)).2 := by
  have hj : j ≤ quadSpan q.a q.b q.c q.d := Nat.le_of_lt_succ (List.mem_range.1 hj)
  have hcorner (p : Coord) (h : p ∈ [q.a, q.b, q.c, q.d] := by simp) : InBox q.list p := .of_mem h
  rw [List.getD_eq_getElem?_getD, quadRows_getElem?_eq_edgePoints hj]
  exact ⟨(hcorner q.a).trans_pair (hcorner q.d) (edgePoint_inBox hj q.a q.d),
    (hcorner q.b).trans_pair (hcorner q.c) (edgePoint_inBox hj q.b q.c)⟩

theorem quadPlots_inBox (m : Arena) (d : DrawOps) (q : Corners) : PlotsInBox q.list (quadPlots m d q) := by
  rw [quadPlots_eq]
  exact .flatMap fun j hj => linePlots_inBox (quadRows_inBox q hj).1 (quadRows_inBox q hj).2 m d _ _

theorem texQuadPlots_inBox (m : Arena) (d : DrawOps) (x : Texture) (hflip vflip : Bool) (q : Corners) :
    PlotsInBox q.list (texQuadPlots m d x hflip vflip q) := by
  rw [texQuadPlots_eq]
  split
  · exact nofun
  · exact .flatMap fun j hj => texRowPlots_inBox (quadRows_inBox q hj).1 (quadRows_inBox q hj).2 m d x _ _ hflip _

/-- Settles O19: every plot of a primitive lies in the bounding box of its corners, and no position of a rejected box
passes the clip tests; the range of the coordinates is not needed. -/
theorem rejectionLosesNoPixel : Obligations.RejectionLosesNoPixel := by
  unfold Obligations.RejectionLosesNoPixel
  intro s d q _
  have side {ps : List Coord} {a b : Coord} (ha : a ∈ ps) (hb : b ∈ ps) : PlotsInBox ps (linePlots s.mem d 0 0 a b) :=
    linePlots_inBox (.of_mem ha) (.of_mem hb) s.mem d 0 0
  refine ⟨fun hr => PlotsInBox.writesOf_eq_nil hr (side (by simp) (by simp)),
    fun hr => ⟨?_, fun x hflip vflip => ?_, ?_⟩⟩
  · exact PlotsInBox.writesOf_eq_nil hr (quadPlots_inBox s.mem d q)
  · exact PlotsInBox.writesOf_eq_nil hr (texQuadPlots_inBox s.mem d x hflip vflip q)
  · have ha : q.a ∈ q.list := by simp [Corners.list]
    have hb : q.b ∈ q.list := by simp [Corners.list]
    have hc : q.c ∈ q.list := by simp [Corners.list]
    have hd : q.d ∈ q.list := by simp [Corners.list]
    exact PlotsInBox.writesOf_eq_nil hr
      ((((side ha hb).append (side hb hc)).append (side hc hd)).append (side hd ha))

end Sys2Proof.Machine
end

section
/-! A list of draw commands: what each step of the grant leaves, command by command to the end (42_command_processor.md
rule R260). -/

namespace Sys2Proof.Machine

/-! ### Runs -/

theorem andThen_assoc (o : Host.Outcome State Fault Refusal) (f g : State → Host.Outcome State Fault Refusal) :
    andThen (andThen o f) g = andThen o fun s => andThen (f s) g := by
  cases o with
  | next s => rfl
  | fault r => rfl
  | refused r => rfl

theorem andThen_next_right (o : Host.Outcome State Fault Refusal) : andThen o Host.Outcome.next = o := by
  cases o with
  | next s => rfl
  | fault r => rfl
  | refused r => rfl

/-- The last of some steps taken apart. -/
theorem steps_succ_last (k : Nat) : ∀ s : State, steps (k + 1) s = andThen (steps k s) step := by
  induction k with
  | zero => exact fun s => andThen_next_right (step s)
  | succ k ih =>
    intro s
    rw [steps, steps, andThen_assoc, funext ih]

/-! ### The commands of a list -/

/-- A field of a word under a mask that covers it. -/
theorem extractLsb'_of_masked {w mask pat : Word} {lo n : Nat} (hm : mask.extractLsb' lo n = BitVec.allOnes n)
    (h : w &&& mask = pat) : w.extractLsb' lo n = pat.extractLsb' lo n := by
  rw [← h, BitVec.extractLsb'_and, hm, BitVec.and_allOnes]

theorem drawsPixels_decodeOpcode {t : CmdTable} (h : (ctrlOpcode t.ctrl).toNat ∈ [0, 1, 2, 4, 5, 6]) :
    drawsPixels (decodeOpcode t) = true := by
  unfold decodeOpcode
  generalize (ctrlOpcode t.ctrl).toNat = k at h
  simp only [List.mem_cons, List.not_mem_nil, or_false] at h
  rcases h with rfl | rfl | rfl | rfl | rfl | rfl <;> rfl

/-- A control word under jump mode Next with the opcode of a draw command decodes to that command. -/
theorem decode_of_drawOpcode {t : CmdTable} {opcode : Word}
    (h : opcode ∈ [0x0#16, 0x1#16, 0x2#16, 0x4#16, 0x5#16, 0x6#16]) (hw : t.ctrl &&& 0xF00F = opcode) :
    ∃ op, decode t = ⟨op, some .jumpNext⟩ ∧ drawsPixels op = true := by
  obtain ⟨h15, h14, hjump, hop⟩ : opcode.getLsbD 15 = false ∧ opcode.getLsbD 14 = false ∧ ctrlJump opcode = 0 ∧
      (ctrlOpcode opcode).toNat ∈ [0, 1, 2, 4, 5, 6] := by
    simp only [List.mem_cons, List.not_mem_nil, or_false] at h
    rcases h with rfl | rfl | rfl | rfl | rfl | rfl <;> decide
  have hjump' : t.ctrl.extractLsb' 12 2 = opcode.extractLsb' 12 2 := extractLsb'_of_masked (by decide) hw
  have hop' : t.ctrl.extractLsb' 0 4 = opcode.extractLsb' 0 4 := extractLsb'_of_masked (by decide) hw
  rw [ctrlJump, ← hjump'] at hjump
  rw [ctrlOpcode, ← hop'] at hop
  rw [← getLsbD_of_masked 15 (by decide) hw] at h15
  rw [← getLsbD_of_masked 14 (by decide) hw] at h14
  refine ⟨decodeOpcode t, ?_, drawsPixels_decodeOpcode hop⟩
  rw [decode_of_opcode h15 h14, decodeJumpMode, ctrlJump, hjump]
  rfl

theorem read16_congr {m m' : Arena} {id : MemId} (h : ∀ a, m'.read8 id a = m.read8 id a) (a : Nat) :
    m'.read16 id a = m.read16 id a := by
  rw [Arena.read16, Arena.read16, h, h]

/-- What a list of draw commands of a grant of `n + 1` steps has reached after `k` of them. -/
structure Reached (s : State) (n : Nat) (rest : List Input) (k : Nat) (u : State) : Prop where
  cmdAddr : u.ctx.cmdAddr.toNat = s.ctx.cmdAddr.toNat + 0x20 * k
  rendering : u.ctx.rendering = true
  drawCalls : u.ctx.drawCalls = s.ctx.drawCalls + k
  out : u.out = s.out
  sched : u.sched = .commands (n + 1 - k) :: rest
  vram1 : ∀ a, u.mem.read8 .vram1 a = s.mem.read8 .vram1 a
  admitted : u.spriteAdmitted = true

section
variable {s u : State} {n k : Nat} {rest : List Input} (h : Reached s n rest k u)
include h

theorem Reached.ctrl_eq : u.fetchTable.ctrl = s.mem.read16 .vram1 (s.ctx.cmdAddr.toNat + 0x20 * k) := by
  change u.mem.read16 .vram1 (u.ctx.cmdAddr.toNat + 0) = _
  rw [Nat.add_zero, h.cmdAddr, read16_congr h.vram1]

/-- A draw command under Next is counted, and the next one in the list comes up. -/
theorem Reached.step_draw (hk : k < n) (hfit : s.ctx.cmdAddr.toNat + 0x20 * n < 0x80000) {opcode : Word}
    (hop : opcode ∈ [0x0#16, 0x1#16, 0x2#16, 0x4#16, 0x5#16, 0x6#16])
    (hw : s.mem.read16 .vram1 (s.ctx.cmdAddr.toNat + 0x20 * k) &&& 0xF00F = opcode) :
    ∃ v, step u = .next v ∧ Reached s n rest (k + 1) v := by
  have hgrant : n + 1 - k = (n - k) + 1 := by omega
  obtain ⟨op, hdec, hdraw⟩ := decode_of_drawOpcode hop (h.ctrl_eq ▸ hw)
  rw [step_commands_running (hgrant ▸ h.sched) h.rendering, if_neg (by omega), State.fetchCommand, hdec]
  obtain ⟨v, hv, hframe, hmem⟩ :=
    exec_draws (s := { u with sched := .commands (n - k) :: rest, result := .nothing }) hdraw h.admitted
  refine ⟨v.withCtx { v.ctx with cmdAddr := nextCommand v.ctx.cmdAddr }, ?_, ?_⟩
  · rw [runCommand, hv]
    rfl
  · have hctx : v.ctx = { u.ctx with drawCalls := u.ctx.drawCalls + 1 } := by rw [hframe]
    have haddr := h.cmdAddr
    constructor
    · rw [State.withCtx_ctx, hctx, nextCommand_eq, BitVec.toNat_ofNat]
      dsimp only
      omega
    · rw [State.withCtx_ctx, hctx]
      exact h.rendering
    · rw [State.withCtx_ctx, hctx]
      exact congrArg (· + 1) h.drawCalls
    · rw [State.withCtx_out, hframe]
      exact h.out
    · rw [State.withCtx_sched, hframe, show n + 1 - (k + 1) = n - k by omega]
    · intro a
      exact (hmem .vram1 a (ne_fbOf (.inl rfl) _)).trans (h.vram1 a)
    · rw [← h.admitted]
      exact spriteAdmitted_congr (by rw [hframe]; rfl) (by rw [hframe]; rfl)

end

/-- The end bit ends the frame at its own command. -/
theorem Reached.step_end {s u : State} {n : Nat} {rest : List Input} (h : Reached s n rest n u)
    (hw : (s.mem.read16 .vram1 (s.ctx.cmdAddr.toNat + 0x20 * n)).getLsbD 15 = true) :
    step u = .next (endFrame { u with sched := rest, result := .nothing }) := by
  have hgrant : n + 1 - n = 0 + 1 := by omega
  rw [step_commands_running (hgrant ▸ h.sched) h.rendering, if_pos rfl, State.fetchCommand,
    decode_of_end (h.ctrl_eq ▸ hw), runCommand, exec, execEndList,
    guardSprite_admitted (s := { u with sched := rest, result := .nothing }) h.admitted]
  rfl

/-- Settles O60, by induction on the commands already run: each step runs the draw command at its own address, and the
one after them ends the frame. -/
theorem drawListRunsToItsEnd : Obligations.DrawListRunsToItsEnd := by
  unfold Obligations.DrawListRunsToItsEnd
  intro n s rest hsched hr ha hfit hdraw hend
  have reached (k : Nat) : k ≤ n → ∃ u, steps k s = .next u ∧ Reached s n rest k u := by
    induction k with
    | zero => exact fun _ => ⟨s, rfl, rfl, hr, rfl, rfl, hsched, fun _ => rfl, ha⟩
    | succ k ih =>
      intro hk
      obtain ⟨u, hu, h⟩ := ih (Nat.le_of_succ_le hk)
      obtain ⟨opcode, hop, hw⟩ := hdraw k hk
      obtain ⟨v, hv, h'⟩ := h.step_draw hk hfit hop hw
      exact ⟨v, by rw [steps_succ_last, hu, andThen_next, hv], h'⟩
  refine ⟨fun k hk => ?_, ?_⟩
  · obtain ⟨u, hu, h⟩ := reached k hk
    exact ⟨u, hu, h.cmdAddr, h.rendering, h.drawCalls, h.out, h.sched, h.vram1⟩
  · obtain ⟨u, hu, h⟩ := reached n le_rfl
    refine ⟨endFrame { u with sched := rest, result := .nothing }, ?_, rfl, rfl, rfl, h.cmdAddr, ?_, h.vram1⟩
    · rw [steps_succ_last, hu, andThen_next, h.step_end hend]
    · rw [endFrame_out, List.append_assoc, ← h.out, ← h.drawCalls]
      rfl

end Sys2Proof.Machine
end

section
/-! Display timing: what a phase event leaves, phase by phase and line by line (43_display_timing.md rules R284 to
R294). -/

namespace Sys2Proof.Machine

/-! ### The event -/

/-- The state in another horizontal phase. -/
def State.inHPhase (s : State) (h : HPhase) : State := s.withTiming { s.timing with hphase := h }

theorem phaseEvent_next_of {s u : State} {h : HPhase} (e : s.timing.hphase = h)
    (he : enterHPhase (nextHPhase h) (s.inHPhase (nextHPhase h)) = .next u) :
    phaseEvent s = .next u.returnCycles := by
  rw [phaseEvent_of e, ← State.inHPhase, he, andThen_next]

/-- The state in `HLastDot` with its line counted, as the vertical transition finds it. -/
def State.atLastDot (s : State) : State :=
  s.withTiming { s.timing with hphase := .lastDot, vcnt := s.timing.vcnt + 1 }

theorem phaseEvent_lastDot {s u : State} (hh : s.timing.hphase = .leftBorder)
    (hv : verticalTransition s.atLastDot = .next u) : phaseEvent s = .next (peripheralCheck u).returnCycles :=
  phaseEvent_next_of hh (andThen_eq_next.2 ⟨u, hv, rfl⟩)

theorem phaseEvent_lastDot_eq_next {s t : State} (hh : s.timing.hphase = .leftBorder) (e : phaseEvent s = .next t) :
    ∃ u, verticalTransition s.atLastDot = .next u ∧ t = (peripheralCheck u).returnCycles := by
  rw [phaseEvent_of hh] at e
  obtain ⟨v, hv, ht⟩ := andThen_eq_next.1 e
  obtain ⟨u, hu, hp⟩ := andThen_eq_next.1 hv
  exact ⟨u, hu, by rw [eq_of_next ht, eq_of_next hp]⟩

/-- Away from `VActive` the line ends with its vertical transition. -/
theorem phaseEvent_lastDot_other {s u : State} (hh : s.timing.hphase = .leftBorder)
    (hv : verticalTransition s.atLastDot = .next u) (hu : u.timing.vphase ≠ .active) :
    phaseEvent s = .next u.returnCycles := by
  rw [phaseEvent_lastDot hh hv, peripheralCheck_idle fun h => absurd h hu]

/-! ### The vertical transition -/

/-- The line that ends a vertical phase (43_display_timing.md rule R286). -/
def phaseEnd (v : VTimes) : VPhase → Nat
  | .active => v.bottomBorder
  | .bottomBorder => v.blankingAndSync
  | .blankingAndSync => v.topBorder
  | .topBorder => v.lastLine
  | .lastLine => v.total

/-- The vertical phase after a phase (43_display_timing.md rule R286). -/
def nextVPhase : VPhase → VPhase
  | .active => .bottomBorder
  | .bottomBorder => .blankingAndSync
  | .blankingAndSync => .topBorder
  | .topBorder => .lastLine
  | .lastLine => .active

/-- The entry action of a vertical phase (43_display_timing.md rules R288, R290, R293, R294). -/
def enterVPhase (v : VPhase) (s : State) : Host.Outcome State Fault Refusal :=
  match v with
  | .active => .next (enterVActive s)
  | .bottomBorder => enterVBottomBorder s
  | .blankingAndSync => .next s
  | .topBorder => .next (enterVTopBorder s)
  | .lastLine => .next (enterVLastLine s)

/-- One line moves to the next vertical phase where the counter has reached the end of its own, by the entry action. -/
theorem verticalTransition_eq (s : State) :
    verticalTransition s =
      if phaseEnd s.vt s.timing.vphase ≤ s.timing.vcnt then
        enterVPhase (nextVPhase s.timing.vphase) (s.inVPhase (nextVPhase s.timing.vphase))
      else .next s := by
  unfold verticalTransition
  cases s.timing.vphase <;> rfl

theorem verticalTransition_stay {s : State} (h : s.timing.vcnt < phaseEnd s.vt s.timing.vphase) :
    verticalTransition s = .next s := by
  rw [verticalTransition_eq, if_neg (Nat.not_le.2 h)]

theorem eraseIfConfigured_timing {s t : State} (e : eraseIfConfigured s = .next t) : t.timing = s.timing := by
  unfold eraseIfConfigured at e
  split at e
  · rw [(eraseActive_eq_next.1 e).2]; rfl
  · rw [eq_of_next e]

/-- An entry action keeps both phases, and the line counter unless it enters `VActive`. -/
theorem enterVPhase_timing {s t : State} {v : VPhase} (e : enterVPhase v s = .next t) :
    t.timing.hphase = s.timing.hphase ∧ t.timing.vphase = s.timing.vphase ∧
      t.timing.vcnt = if v = .active then 0 else s.timing.vcnt := by
  cases v with
  | active => rw [eq_of_next e]; exact ⟨rfl, rfl, rfl⟩
  | bottomBorder =>
    obtain ⟨u, herase, hframe⟩ := andThen_eq_next.1 e
    have htiming : t.timing = s.timing := by
      rw [eq_of_next hframe]
      exact eraseIfConfigured_timing (s := s.trigger .vblankStart) (t := u) herase
    rw [htiming]
    exact ⟨rfl, rfl, rfl⟩
  | blankingAndSync => rw [eq_of_next e]; exact ⟨rfl, rfl, rfl⟩
  | topBorder =>
    rw [eq_of_next e]
    unfold enterVTopBorder
    split
    · exact ⟨rfl, rfl, rfl⟩
    · exact ⟨rfl, rfl, rfl⟩
  | lastLine => rw [eq_of_next e]; exact ⟨rfl, rfl, rfl⟩

theorem nextVPhase_eq_active_iff (v : VPhase) : nextVPhase v = .active ↔ v = .lastLine := by
  cases v <;> decide

theorem verticalTransition_timing {s t : State} (e : verticalTransition s = .next t) :
    t.timing.hphase = s.timing.hphase ∧
    t.timing.vphase =
      (if phaseEnd s.vt s.timing.vphase ≤ s.timing.vcnt then nextVPhase s.timing.vphase else s.timing.vphase) ∧
    t.timing.vcnt = if s.timing.vphase = .lastLine ∧ s.vt.total ≤ s.timing.vcnt then 0 else s.timing.vcnt := by
  have hend (h : s.timing.vphase = .lastLine) : phaseEnd s.vt s.timing.vphase = s.vt.total := by rw [h]; rfl
  rw [verticalTransition_eq] at e
  split at e
  · next hle =>
    obtain ⟨hh, hv, hc⟩ := enterVPhase_timing e
    refine ⟨hh, by rw [hv, if_pos hle]; rfl, ?_⟩
    rw [hc]
    exact if_congr ((nextVPhase_eq_active_iff _).trans ⟨fun h => ⟨h, hend h ▸ hle⟩, fun h => h.1⟩) rfl rfl
  · next hlt =>
    rw [eq_of_next e]
    exact ⟨rfl, (if_neg hlt).symm, (if_neg fun h : _ ∧ _ => hlt (hend h.1 ▸ h.2)).symm⟩

/-- The peripheral check leaves the timing but for its own mark. -/
theorem peripheralCheck_timing (s : State) :
    (peripheralCheck s).timing = { s.timing with periphDone := (peripheralCheck s).timing.periphDone } := by
  unfold peripheralCheck
  split
  · rfl
  · rfl

/-! ### The phases -/

theorem renderScanline_timing {s t : State} {y : Nat} (e : renderScanline s y = .next t) : t.timing = s.timing := by
  rcases renderScanline_eq_next.1 e with ⟨-, rfl⟩ | ⟨-, -, -, rfl⟩
  · rfl
  · rfl

theorem enterHVBlankOut_timing {s t : State} (e : enterHVBlankOut s = .next t) : t.timing = s.timing := by
  unfold enterHVBlankOut at e
  split at e
  · rw [swap_admitted_eq (swap_eq_next.1 e).1] at e
    rw [eq_of_next e]
  · rw [eq_of_next e]

theorem enterHActive_timing {s t : State} (e : enterHActive s = .next t) : t.timing = s.timing := by
  unfold enterHActive at e
  split at e
  · rw [renderScanline_timing e, frameInit_if]
  · rw [eq_of_next e]

/-- No entry action moves the horizontal phase. -/
theorem enterHPhase_hphase {s t : State} {h : HPhase} (e : enterHPhase h s = .next t) :
    t.timing.hphase = s.timing.hphase := by
  cases h with
  | active => rw [enterHActive_timing e]
  | rightBorder =>
    rw [eq_of_next e]
    unfold enterHRightBorder
    split
    · rfl
    · rfl
  | sync => rw [eq_of_next e]
  | vblankOut => rw [enterHVBlankOut_timing e]
  | leftBorder => rw [eq_of_next e]
  | lastDot =>
    obtain ⟨u, hu, hp⟩ := andThen_eq_next.1 e
    rw [eq_of_next hp, peripheralCheck_timing]
    exact (verticalTransition_timing hu).1

theorem phaseEvent_hphase {s t : State} {h : HPhase} (hh : s.timing.hphase = h) (e : phaseEvent s = .next t) :
    t.timing.hphase = nextHPhase h ∧ t.result = .cycles (phaseCycles t.ht (nextHPhase h)) := by
  subst hh
  obtain ⟨u, he, rfl⟩ := phaseEvent_eq_next.1 e
  have hu : u.timing.hphase = nextHPhase s.timing.hphase := enterHPhase_hphase he
  exact ⟨hu, by rw [State.returnCycles_result, hu]; rfl⟩

/-- Settles O31: no entry action moves the horizontal phase, and the duration is read from the state it leaves; entering
`HSync` and `HLeftBorder` has no entry action at all. -/
theorem phaseEventsCycleThePhases : Obligations.PhaseEventsCycleThePhases := by
  unfold Obligations.PhaseEventsCycleThePhases
  refine ⟨fun s t e => ?_, fun s h => phaseEvent_next_of h rfl, fun s h => phaseEvent_next_of h rfl⟩
  exact ⟨fun h => phaseEvent_hphase h e, fun h => phaseEvent_hphase h e, fun h => phaseEvent_hphase h e,
    fun h => phaseEvent_hphase h e, fun h => phaseEvent_hphase h e, fun h => phaseEvent_hphase h e⟩

/-! ### Triggers and lines -/

theorem phaseEvent_rightBorder {s : State} (h : s.timing.hphase = .active) :
    phaseEvent s =
      .next
        { s with
          timing := { s.timing with hphase := .rightBorder }
          out := if s.timing.vphase = .active then s.out ++ [.trigger .hblankStart] else s.out
          result := .cycles s.ht.rightBorder } := by
  by_cases hv : s.timing.vphase = .active
  · rw [if_pos hv]
    exact phaseEvent_next_of h (congrArg Host.Outcome.next (enterHRightBorder_active (s := s.inHPhase .rightBorder) hv))
  · rw [if_neg hv]
    exact phaseEvent_next_of h (congrArg Host.Outcome.next (enterHRightBorder_other (s := s.inHPhase .rightBorder) hv))

/-- A line inside `VActive` counts, and raises `PeripheralRead` where the bottom border is one line off and the read is
not marked. -/
theorem phaseEvent_lastDot_active {s : State} (hh : s.timing.hphase = .leftBorder) (hv : s.timing.vphase = .active)
    (hlt : s.timing.vcnt + 1 < s.vt.bottomBorder) :
    phaseEvent s =
      .next
        { s with
          timing :=
            { s.timing with
              hphase := .lastDot
              vcnt := s.timing.vcnt + 1
              periphDone := s.timing.periphDone || decide (s.vt.bottomBorder ≤ s.timing.vcnt + 2) }
          out :=
            if s.timing.periphDone = false ∧ s.vt.bottomBorder ≤ s.timing.vcnt + 2 then
              s.out ++ [.trigger .peripheralRead]
            else s.out
          result := .cycles s.ht.lastDot } := by
  rw [phaseEvent_lastDot hh (verticalTransition_active_stay (s := s.atLastDot) hv hlt)]
  by_cases hp : s.timing.periphDone = false ∧ s.vt.bottomBorder ≤ s.timing.vcnt + 2
  · rw [peripheralCheck_raise (s := s.atLastDot) hv hp.1 hp.2, if_pos hp, hp.1, decide_eq_true hp.2]
    rfl
  · have hidle : peripheralCheck s.atLastDot = s.atLastDot :=
      peripheralCheck_idle fun _ hd => Nat.not_le.1 fun hle => hp ⟨hd, hle⟩
    have hmark : (s.timing.periphDone || decide (s.vt.bottomBorder ≤ s.timing.vcnt + 2)) = s.timing.periphDone := by
      cases hd : s.timing.periphDone with
      | false => exact decide_eq_false fun hle => hp ⟨hd, hle⟩
      | true => rfl
    rw [hidle, if_neg hp, hmark]
    rfl

/-- Settles O32: each vertical phase's own entry action on its line; the counter being 0 keeps the peripheral check idle
on the line that enters `VActive`. -/
theorem triggersAreRaisedOnTheirLines : Obligations.TriggersAreRaisedOnTheirLines := by
  unfold Obligations.TriggersAreRaisedOnTheirLines
  refine ⟨fun s => phaseEvent_rightBorder, fun s hh hv hle => ?_, fun s hh hv hle hb => ?_,
    fun s => phaseEvent_lastDot_active⟩
  · exact phaseEvent_lastDot_other hh (verticalTransition_top_leave (s := s.atLastDot) hv hle) (by simp)
  · rw [phaseEvent_lastDot hh (verticalTransition_last_leave (s := s.atLastDot) hv hle),
      peripheralCheck_idle fun _ _ => hb]
    rfl

/-- A line that stays in a vertical phase other than `VActive` counts and does nothing else. -/
theorem phaseEvent_lastDot_stay {s : State} (hh : s.timing.hphase = .leftBorder) (hv : s.timing.vphase ≠ .active)
    (hlt : s.timing.vcnt + 1 < phaseEnd s.vt s.timing.vphase) :
    phaseEvent s =
      .next
        { s with
          timing := { s.timing with hphase := .lastDot, vcnt := s.timing.vcnt + 1 }
          result := .cycles s.ht.lastDot } :=
  phaseEvent_lastDot_other hh (verticalTransition_stay (s := s.atLastDot) hlt) hv

/-- Settles O33: the vertical transition, said once for all phases, gives the phase and the counter; a line that stays,
and one that leaves `VBottomBorder`, has no action. -/
theorem lastDotCountsTheLine : Obligations.LastDotCountsTheLine := by
  unfold Obligations.LastDotCountsTheLine
  refine ⟨fun s t hh e => ?_, fun s hh => ⟨fun hv => ?_, fun h => ?_⟩⟩
  · obtain ⟨u, hu, rfl⟩ := phaseEvent_lastDot_eq_next hh e
    obtain ⟨-, hphase, hcount⟩ := verticalTransition_timing hu
    rw [State.returnCycles_timing, peripheralCheck_timing]
    refine ⟨hphase.trans ?_, hcount⟩
    show (if phaseEnd s.vt s.timing.vphase ≤ s.timing.vcnt + 1 then nextVPhase s.timing.vphase else s.timing.vphase) = _
    cases s.timing.vphase <;> rfl
  · by_cases hle : s.vt.blankingAndSync ≤ s.timing.vcnt + 1
    · rw [if_pos hle]
      exact phaseEvent_lastDot_other hh (verticalTransition_bottom_leave (s := s.atLastDot) hv hle) (by simp)
    · rw [if_neg hle, ← hv]
      exact phaseEvent_lastDot_stay hh (by simp [hv]) (by rw [hv]; exact Nat.not_le.1 hle)
  · rcases h with ⟨hv, hlt⟩ | ⟨hv, hlt⟩ | ⟨hv, hlt⟩ <;>
      exact phaseEvent_lastDot_stay hh (by simp [hv]) (by rw [hv]; exact hlt)

/-! ### Bottom border, top border and last line -/

/-- `EraseIfConfigured` answers wherever the erase would, and changes the memories only. -/
theorem eraseIfConfigured_admitted {s : State} (h : s.spriteAdmitted = true) :
    eraseIfConfigured s =
      .next
        { s with mem := if s.reg1.vblankErase = 1 ∨ s.reg1.fbSwapMode = 0 then s.eraseDisplay.mem else s.mem } := by
  by_cases hd : s.reg1.vblankErase = 1 ∨ s.reg1.fbSwapMode = 0
  · rw [eraseIfConfigured_due hd, eraseActive_admitted h, if_pos hd]; rfl
  · rw [eraseIfConfigured_idle hd, if_neg hd]

/-- Settles O34: the erase finds the sprite mode, the registers and the rectangle of the state before the event, so it
leaves the memories the erase of that state leaves. -/
theorem bottomBorderErasesAndReportsTheFrame : Obligations.BottomBorderErasesAndReportsTheFrame := by
  unfold Obligations.BottomBorderErasesAndReportsTheFrame
  intro s e hh hv hle he
  obtain ⟨ha, rfl⟩ := eraseActive_eq_next.1 he
  have hleave := verticalTransition_active_leave (s := s.atLastDot) hv hle
  rw [enterVBottomBorder,
    eraseIfConfigured_admitted (s := (s.atLastDot.inVPhase .bottomBorder).trigger .vblankStart) ha,
    andThen_next] at hleave
  rw [List.append_cons s.out (.trigger .vblankStart)]
  exact phaseEvent_lastDot_other hh hleave (by simp)

/-- Settles O35: the latch decides whether entering `VTopBorder` has an action. -/
theorem topBorderTakesTheResolution : Obligations.TopBorderTakesTheResolution := by
  unfold Obligations.TopBorderTakesTheResolution
  intro s hh hv hle
  have hleave := verticalTransition_blanking_leave (s := s.atLastDot) hv hle
  refine ⟨fun hp => ?_, fun hp => ?_⟩
  · rw [enterVTopBorder_pending (by exact hp)] at hleave
    exact phaseEvent_lastDot_other hh hleave (by simp [State.takeResolution])
  · rw [enterVTopBorder_idle (by exact hp)] at hleave
    exact phaseEvent_lastDot_other hh hleave (by simp)

/-- Settles O36: the swap keeps the timing and the parameters, so the duration is that of the table in force before
it. -/
theorem lastLineSwaps : Obligations.LastLineSwaps := by
  unfold Obligations.LastLineSwaps
  refine fun s hh => ⟨fun hv hd t ht => ?_, fun hidle => ?_⟩
  · obtain ⟨ha, -⟩ := swap_eq_next.1 ht
    have hswap := swap_admitted_eq ha
    rw [eq_of_next (hswap.symm.trans ht)]
    exact phaseEvent_next_of hh ((enterHVBlankOut_due (s := s.inHPhase .vblankOut) hv hd).trans hswap)
  · exact phaseEvent_next_of hh (enterHVBlankOut_idle hidle)

end Sys2Proof.Machine
end

section
/-! A scanline: what the phase event that renders it leaves in the frame, the buffers and the accumulators
(43_display_timing.md rules R295, R296; 45_compositor.md rule R430). -/

namespace Sys2Proof.Machine

/-! ### The event -/

/-- The state in which the scanline of `HActive` is rendered: on line 0 with the accumulators initialised. -/
def State.atScanline (s : State) : State :=
  { s with
    timing := { s.timing with hphase := .active }
    acc := if s.timing.vcnt = 0 then frameInitAcc s.cfg2 s.mem s.acc else s.acc }

theorem phaseEvent_scanline {s t : State} (hh : s.timing.hphase = .lastDot) (hv : s.timing.vphase = .active)
    (h : renderScanline s.atScanline s.timing.vcnt = .next t) : phaseEvent s = .next t.returnCycles :=
  phaseEvent_next_of hh <| by
    rw [← h]
    exact (enterHActive_active (s := s.inHPhase .active) hv).trans (by rw [frameInit_if]; rfl)

/-! ### The row -/

theorem toNat_shiftedByte (v : Byte) {n : Nat} (h : n ≤ 24) : (v.setWidth 32 <<< n).toNat = v.toNat <<< n := by
  have hpow : 2 ^ n ≤ 2 ^ 24 := Nat.pow_le_pow_right (by decide) h
  have hlt : v.toNat * 2 ^ n < 2 ^ 32 :=
    Nat.lt_of_lt_of_le (Nat.mul_lt_mul_of_pos_right v.isLt (Nat.two_pow_pos n)) (Nat.mul_le_mul_left _ hpow)
  rw [BitVec.toNat_shiftLeft, BitVec.toNat_setWidth, Nat.mod_eq_of_lt (by omega : v.toNat < 2 ^ 32), Nat.shiftLeft_eq,
    Nat.mod_eq_of_lt hlt]

/-- The packing of an output pixel as shifted channels (30_encoding.md rule R147). -/
theorem outputPixel_eq (p : Color) :
    outputPixel p =
      0xFF000000#32 ||| (p.b.setWidth 32 <<< 16) ||| (p.g.setWidth 32 <<< 8) ||| p.r.setWidth 32 := by
  apply BitVec.eq_of_toNat_eq
  have hr : p.r.toNat < 2 ^ 32 := by omega
  rw [BitVec.toNat_or, BitVec.toNat_or, BitVec.toNat_or, toNat_shiftedByte p.b (by decide),
    toNat_shiftedByte p.g (by decide), BitVec.toNat_setWidth, Nat.mod_eq_of_lt hr]
  simp only [outputPixel, BitVec.toNat_append, Nat.shiftLeft_or_distrib, ← Nat.shiftLeft_add]
  rfl

theorem pixel_writeRow_composeRow (f : OutFrame) (c : Cfg2) (a : Accumulators) (b : LineBuffers) (y : Nat) {w x : Nat}
    (hx : x < w) : (f.writeRow y (composeRow c a b w)).pixel x y = outputPixel (composePixel c a b x) := by
  rw [OutFrame.pixel_writeRow_same _ _ _ (by rw [length_composeRow]; exact hx)]
  exact getElem_forLine w _ _

theorem pixel_writeRow_blank (f : OutFrame) (y : Nat) {w x : Nat} (hx : x < w) :
    (f.writeRow y (List.replicate w blankPixel)).pixel x y = blankPixel := by
  rw [OutFrame.pixel_writeRow_same _ _ _ (by rw [List.length_replicate]; exact hx), List.getElem_replicate]

/-- Settles O37: a disabled display renders the blank row, and away from `VActive` there is no entry action. -/
theorem disabledDisplayFillsTheRow : Obligations.DisabledDisplayFillsTheRow := by
  unfold Obligations.DisabledDisplayFillsTheRow
  refine fun s hh => ⟨fun hv hd => ?_, fun hv => ?_⟩
  · refine ⟨_, phaseEvent_scanline hh hv (renderScanline_blank (s := s.atScanline) hd s.timing.vcnt), fun x hx => ?_,
      fun x y hy => ?_, rfl, rfl⟩
    · exact pixel_writeRow_blank s.outFrame s.timing.vcnt hx
    · exact OutFrame.pixel_writeRow_ne s.outFrame _ x hy
  · exact phaseEvent_next_of hh (enterHActive_other (s := s.inHPhase .active) hv)

/-! ### The accumulators of a line -/

/-- The increment of a vertical accumulator; the slots that do not scroll have none (44_background.md rule R326). -/
theorem advanceLineAcc_lineAcc_fracY (s : State) (y : Nat) (L : Slot) :
    ((advanceLineAcc s.cfg2 (lineAcc s y)).scroll L).fracY =
      if L = .sprite ∨ L = .rbg0 then 0 else (s.acc.scroll L).fracY + s.cfg2.zmy L := by
  have hscroll (L : Slot) (a : ScrollAcc) :
      (lineScrollSlot s.cfg2 s.mem y L a).fracY + s.cfg2.zmy L = a.fracY + s.cfg2.zmy L := by
    rw [lineScrollSlot_fracY]
  cases L with
  | sprite => rfl
  | rbg0 => rfl
  | nbg0 => exact hscroll .nbg0 s.acc.nbg0
  | nbg1 => exact hscroll .nbg1 s.acc.nbg1
  | nbg2 => exact hscroll .nbg2 s.acc.nbg2
  | nbg3 => exact hscroll .nbg3 s.acc.nbg3

/-- The rotation accumulators move by the increments of their record (44_background.md rule R326). -/
theorem advanceLineAcc_lineAcc_rot (s : State) (y : Nat) (P : ParamSet) :
    let r := (advanceLineAcc s.cfg2 (lineAcc s y)).rot P
    let r0 := s.acc.rot P
    r.rp = r0.rp ∧ r.xstAcc = r0.xstAcc + r0.rp.dXst ∧ r.ystAcc = r0.ystAcc + r0.rp.dYst ∧
      r.kaAcc = r0.kaAcc + r0.rp.dKast := by
  cases P with
  | a => exact ⟨rfl, rfl, rfl, rfl⟩
  | b => exact ⟨rfl, rfl, rfl, rfl⟩

/-- Settles O38: in an admitted configuration the event renders the composed line; the buffers and the accumulators of
the line do not read the horizontal phase. -/
theorem scanlineComposesTheRow : Obligations.ScanlineComposesTheRow := by
  unfold Obligations.ScanlineComposesTheRow
  intro s hh hv hd ha
  dsimp only
  obtain ⟨hsprite, hback⟩ : s.spriteAdmitted = true ∧ s.cfg2.backgroundAdmitted = true := by
    simpa [State.admitted, hd] using ha
  rw [frameInit_if]
  refine ⟨_, phaseEvent_scanline hh hv (renderScanline_eq_next.2 (.inr ⟨hd, hsprite, hback, rfl⟩)), rfl, rfl,
    fun x hx => ?_, fun x y' hy => ?_, rfl, fun L => ?_, fun P => ?_⟩
  · rw [← outputPixel_eq]
    exact pixel_writeRow_composeRow s.outFrame _ _ _ _ hx
  · exact OutFrame.pixel_writeRow_ne s.outFrame _ x hy
  · exact advanceLineAcc_lineAcc_fracY s.atScanline s.timing.vcnt L
  · exact advanceLineAcc_lineAcc_rot s.atScanline s.timing.vcnt P

end Sys2Proof.Machine
end

section
/-! The layers of a line: what stands in each buffer after the sprite layer, the windows and the background layers
(43_display_timing.md rule R296; 44_background.md rules R320, R328, R346, R367; 45_compositor.md rule R402). -/

namespace Sys2Proof.Machine

/-! ### The sprite layer and the windows -/

theorem displayedWord_eq (s : State) (x y : Nat) :
    s.displayedWord x y = s.fbReadDisplay (x / (if s.timing.actHRES.getLsbD 1 then 2 else 1) : Nat) y := by
  rw [State.displayedWord, Timing.hires]
  split
  · rfl
  · rw [Nat.div_one]

/-- The buffers of a line before its background layers. -/
def windowedLine (s : State) (y : Nat) : LineBuffers :=
  windowsLine s.cfg2 s.mem s.timing.outW y (spriteLayer s y)

section
variable {s : State} {y x : Nat} (hx : x < s.timing.outW)
include hx

theorem windowedLine_sprite :
    (windowedLine s y).sprite x = spriteAttributes s.cfg2 s.mem (s.displayedWord x y) :=
  getD_overlay_forLine _ _ _ _ hx

theorem windowedLine_windowAt (ws : BitVec 7) (old : List Bool) :
    (overlay (forLine s.timing.outW (windowAt s.cfg2 s.mem (windowedLine s y).spr y ws)) old).getD x false =
      windowAt s.cfg2 s.mem (windowedLine s y).spr y ws x := getD_overlay_forLine _ _ _ _ hx

theorem windowedLine_masked (L : Slot) :
    (windowedLine s y).masked L x = windowAt s.cfg2 s.mem (windowedLine s y).spr y (s.cfg2.wctl L) x := by
  cases L <;> exact windowedLine_windowAt hx _ _

/-- The sprite layer's window makes its dots transparent (44_background.md rule R346). -/
theorem windowedLine_dot_sprite :
    (windowedLine s y).dot .sprite x =
      { spriteLayerDot s.cfg2 s.mem (s.displayedWord x y) with
        transparent :=
          (spriteLayerDot s.cfg2 s.mem (s.displayedWord x y)).transparent || (windowedLine s y).masked .sprite x } := by
  have hdot : (spriteLayer s y).layer.sprite.getD x LayerDot.clear =
      spriteLayerDot s.cfg2 s.mem (s.displayedWord x y) := getD_overlay_forLine _ _ _ _ hx
  have hmask :
      (forLine s.timing.outW (windowAt s.cfg2 s.mem (spriteLayer s y).spr y (s.cfg2.wctl .sprite))).getD x false =
        (windowedLine s y).masked .sprite x := by
    rw [windowedLine_masked hx, List.getD_eq_getElem _ _ (by rw [length_forLine]; exact hx), getElem_forLine]
    rfl
  refine (getD_overlay_forLine _ _ _ _ hx).trans ?_
  rw [hdot, hmask]
  cases (windowedLine s y).masked .sprite x <;> simp

end

/-! ### One background layer -/

section
variable {c : Cfg2} {m : Arena} {a : Accumulators} {w x : Nat} {b : LineBuffers} {L : Slot}

theorem LineBuffers.dot_setLayer (b : LineBuffers) (L : Slot) (f : Nat → LayerDot) (hx : x < w) :
    (b.setLayer L (forLine w f)).dot L x = f x := by
  rw [LineBuffers.dot, LineBuffers.setLayer, PerSlot.get_set_same]
  exact getD_overlay_forLine _ _ _ _ hx

theorem backgroundLayer_dot_disabled (he : c.enabled L = false) (hx : x < w) :
    (backgroundLayer c m a w b L).dot L x = LayerDot.clear := by
  rw [backgroundLayer, if_pos (by simp [he]), LineBuffers.dot_setLayer _ _ _ hx]

theorem backgroundLayer_dot_scroll (he : c.enabled L = true) (hr : c.isRotation L = false) (hx : x < w) :
    (backgroundLayer c m a w b L).dot L x = if b.masked L x then LayerDot.clear else scrollDot c m a L x := by
  rw [backgroundLayer, if_neg (by simp [he]), if_neg (by simp [hr]), LineBuffers.dot_setLayer _ _ _ hx]

theorem backgroundLayer_of_rotation (he : c.enabled L = true) (hr : c.isRotation L = true) :
    backgroundLayer c m a w b L =
      (b.setRotCoord L (rotCoordLine c m a b w L)).setLayer L
        (forLine w fun x =>
          if b.masked L x then LayerDot.clear
          else rotLayerDot c m a b L ((rotCoordLine c m a b w L).getD x RotCoord.clear) x) := by
  rw [backgroundLayer, if_neg (by simp [he]), if_pos hr]

/-- The coordinates of a dot of a rotation layer, in the set its window chooses (44_background.md rules R364, R365). -/
def rotCoordOf (c : Cfg2) (m : Arena) (a : Accumulators) (b : LineBuffers) (L : Slot) (x : Nat) : RotCoord :=
  rotCoordAt c m a (paramSetOf c m a L (b.winRP.getD x false) (mosaicX c L x)) (mosaicX c L x)

theorem getD_rotCoordLine (hx : x < w) : (rotCoordLine c m a b w L).getD x RotCoord.clear = rotCoordOf c m a b L x := by
  rw [List.getD_eq_getElem _ _ (by rw [rotCoordLine, length_forLine]; exact hx)]
  exact getElem_forLine w _ _

theorem backgroundLayer_dot_rotation (he : c.enabled L = true) (hr : c.isRotation L = true) (hx : x < w) :
    (backgroundLayer c m a w b L).dot L x =
      if b.masked L x then LayerDot.clear else rotLayerDot c m a b L (rotCoordOf c m a b L x) x := by
  rw [backgroundLayer_of_rotation he hr, LineBuffers.dot_setLayer _ _ _ hx, getD_rotCoordLine hx]

theorem backgroundLayer_dot_masked (hm : b.masked L x = true) (hx : x < w) :
    (backgroundLayer c m a w b L).dot L x = LayerDot.clear := by
  cases he : c.enabled L with
  | false => exact backgroundLayer_dot_disabled he hx
  | true =>
    cases hr : c.isRotation L with
    | false => rw [backgroundLayer_dot_scroll he hr hx, hm]; rfl
    | true => rw [backgroundLayer_dot_rotation he hr hx, hm]; rfl

theorem backgroundLayer_rotCoord1 (he : c.enabled .rbg0 = true) (hr : c.isRotation .rbg0 = true) (hx : x < w) :
    (backgroundLayer c m a w b .rbg0).rotCoord1.getD x RotCoord.clear = rotCoordOf c m a b .rbg0 x := by
  rw [backgroundLayer_of_rotation he hr]
  exact getD_overlay_forLine _ _ _ _ hx

theorem backgroundLayer_rotCoord2 (he : c.enabled .nbg0 = true) (hr : c.isRotation .nbg0 = true) (hx : x < w) :
    (backgroundLayer c m a w b .nbg0).rotCoord2.getD x RotCoord.clear = rotCoordOf c m a b .nbg0 x := by
  rw [backgroundLayer_of_rotation he hr]
  exact getD_overlay_forLine _ _ _ _ hx

end

/-! ### The background layers in turn -/

/-- What no background layer writes. -/
structure LineBuffers.SameWindows (b t : LineBuffers) : Prop where
  spr : t.spr = b.spr
  win : t.win = b.win
  winCC : t.winCC = b.winCC
  winRP : t.winRP = b.winRP

/-- The buffers of one slot: its layer, and its coordinates where it has any. -/
structure LineBuffers.SameSlot (b t : LineBuffers) (L : Slot) : Prop where
  layer : t.layer.get L = b.layer.get L
  rotCoord1 : L = .rbg0 → t.rotCoord1 = b.rotCoord1
  rotCoord2 : L = .nbg0 → t.rotCoord2 = b.rotCoord2

section
variable (c : Cfg2) (m : Arena) (a : Accumulators) (w : Nat)

theorem foldl_backgroundLayer_sameWindows (Ls : List Slot) :
    ∀ b : LineBuffers, b.SameWindows (Ls.foldl (backgroundLayer c m a w) b) := by
  induction Ls with
  | nil => exact fun _ => ⟨rfl, rfl, rfl, rfl⟩
  | cons L Ls ih =>
    intro b
    obtain ⟨h1, h2, h3, h4, -⟩ := backgroundLayer_frame c m a w b L
    obtain ⟨k1, k2, k3, k4⟩ := ih (backgroundLayer c m a w b L)
    exact ⟨k1.trans h1, k2.trans h2, k3.trans h3, k4.trans h4⟩

theorem foldl_backgroundLayer_sameSlot {M : Slot} (Ls : List Slot) :
    M ∉ Ls → ∀ b : LineBuffers, b.SameSlot (Ls.foldl (backgroundLayer c m a w) b) M := by
  induction Ls with
  | nil => exact fun _ _ => ⟨rfl, fun _ => rfl, fun _ => rfl⟩
  | cons L Ls ih =>
    intro hM b
    obtain ⟨hne, hM⟩ := not_or.1 (mt List.mem_cons.2 hM)
    obtain ⟨-, -, -, -, hlayer, h1, h2⟩ := backgroundLayer_frame c m a w b L
    obtain ⟨klayer, k1, k2⟩ := ih hM (backgroundLayer c m a w b L)
    exact ⟨klayer.trans (hlayer M hne), fun e => (k1 e).trans (h1 fun h => hne (e.trans h.symm)),
      fun e => (k2 e).trans (h2 fun h => hne (e.trans h.symm))⟩

/-- Among distinct slots each layer is rendered once, from the windows the line began with. -/
theorem foldl_backgroundLayer_slot {Ls : List Slot} (hnd : Ls.Nodup) {L : Slot} (hL : L ∈ Ls) (b : LineBuffers) :
    ∃ b', b.SameWindows b' ∧ (backgroundLayer c m a w b' L).SameSlot (Ls.foldl (backgroundLayer c m a w) b) L := by
  obtain ⟨before, after, rfl⟩ := List.append_of_mem hL
  have hafter : L ∉ after := (List.nodup_cons.1 (List.nodup_append.1 hnd).2.1).1
  rw [List.foldl_append]
  exact ⟨_, foldl_backgroundLayer_sameWindows c m a w before b, foldl_backgroundLayer_sameSlot c m a w after hafter _⟩

end

/-! ### The buffers of a line -/

theorem lineBuffers_sameWindows (s : State) (y : Nat) : (windowedLine s y).SameWindows (lineBuffers s y) :=
  foldl_backgroundLayer_sameWindows _ _ _ _ _ _

/-- A background layer of a line, rendered from the windows the finished buffers still hold. -/
theorem lineBuffers_slot (s : State) (y : Nat) {L : Slot} (hL : L ≠ .sprite) :
    ∃ b, b.SameWindows (lineBuffers s y) ∧
      (backgroundLayer s.cfg2 s.mem (lineAcc s y) s.timing.outW b L).SameSlot (lineBuffers s y) L := by
  have hmem : L ∈ [Slot.rbg0, .nbg0, .nbg1, .nbg2, .nbg3] := by cases L <;> simp at hL ⊢
  obtain ⟨b, ⟨h1, h2, h3, h4⟩, hslot⟩ :=
    foldl_backgroundLayer_slot s.cfg2 s.mem (lineAcc s y) s.timing.outW (by decide) hmem (windowedLine s y)
  obtain ⟨k1, k2, k3, k4⟩ := lineBuffers_sameWindows s y
  exact ⟨b, ⟨k1.trans h1.symm, k2.trans h2.symm, k3.trans h3.symm, k4.trans h4.symm⟩, hslot⟩

/-- Settles O43: the background layers keep the sprite layer, its entries of `spr` and the window sets, and each of
them is rendered from those window sets. -/
theorem everyLayerOfALineIsRendered : Obligations.EveryLayerOfALineIsRendered := by
  unfold Obligations.EveryLayerOfALineIsRendered
  intro s y x hx
  dsimp only
  obtain ⟨hspr, hwin, hCC, hRP⟩ := lineBuffers_sameWindows s y
  have hset (ws : BitVec 7) : windowAt s.cfg2 s.mem (windowedLine s y).spr y ws x =
      evalWindowSet ws (insideWindow s.mem s.cfg2.window0 y x) (insideWindow s.mem s.cfg2.window1 y x)
        (s.cfg2.spwinen && ((lineBuffers s y).sprite x).shadowOrWindow) := by
    rw [windowAt, LineBuffers.sprite, hspr]
  have hmasked (L : Slot) : (lineBuffers s y).masked L x = (windowedLine s y).masked L x := by
    rw [LineBuffers.masked, hwin]; rfl
  have hdot : (lineBuffers s y).dot .sprite x = (windowedLine s y).dot .sprite x :=
    congrArg (List.getD · x LayerDot.clear)
      (foldl_backgroundLayer_sameSlot s.cfg2 s.mem (lineAcc s y) s.timing.outW _ (by decide) (windowedLine s y)).layer
  rw [← displayedWord_eq]
  refine ⟨?_, ?_, fun L => ?_, ?_, ?_, fun L hL => ?_⟩
  · rw [LineBuffers.sprite, hspr]
    exact windowedLine_sprite hx
  · rw [hdot, hmasked, windowedLine_dot_sprite hx]
  · rw [hmasked, windowedLine_masked hx, hset]
  · rw [hCC, ← hset]
    exact windowedLine_windowAt hx _ _
  · rw [hRP, ← hset]
    exact windowedLine_windowAt hx _ _
  · obtain ⟨b, hsame, hslot⟩ := lineBuffers_slot s y hL
    have hmask : (lineBuffers s y).masked L x = b.masked L x := by rw [LineBuffers.masked, hsame.win]; rfl
    have hlayer : (lineBuffers s y).dot L x = (backgroundLayer s.cfg2 s.mem (lineAcc s y) s.timing.outW b L).dot L x :=
      congrArg (List.getD · x LayerDot.clear) hslot.layer
    rw [hmask, hlayer, hsame.winRP]
    refine ⟨fun h => ?_, fun he hr hm => ?_, fun he hr => ⟨fun e => ?_, fun e => ?_, fun hm => ?_⟩⟩
    · rcases h with he | hm
      · exact backgroundLayer_dot_disabled he hx
      · exact backgroundLayer_dot_masked hm hx
    · rw [backgroundLayer_dot_scroll he hr hx, hm]; rfl
    · subst e
      rw [hslot.rotCoord1 rfl]
      exact backgroundLayer_rotCoord1 he hr hx
    · subst e
      rw [hslot.rotCoord2 rfl]
      exact backgroundLayer_rotCoord2 he hr hx
    · rw [backgroundLayer_dot_rotation he hr hx, hm]; rfl

end Sys2Proof.Machine
end

section
/-! Windows: the columns of a window on a line, and what a window set makes of its sources (44_background.md rules R344,
R345; 30_encoding.md rule R133). -/

namespace Sys2Proof.Machine

/-! ### The columns of a window -/

/-- A bit field at the bottom of a word is a remainder. -/
theorem toNat_extractLsb'_low {n : Nat} (v : BitVec n) (w : Nat) : (v.extractLsb' 0 w).toNat = v.toNat % 2 ^ w := by
  rw [toNat_extractLsb'_eq, Nat.pow_zero, Nat.div_one]

/-- The table of a window holds a start word and an end word for each line (30_encoding.md rule R133). -/
theorem windowRange_eq (m : Arena) (w : WindowRegs) (y : Nat) :
    (windowRange m w y).1 = (if w.lwe then (m.read16 .vram2 (w.lwta + 4 * y)).toNat % 1024 else w.sx) ∧
      (windowRange m w y).2 = if w.lwe then (m.read16 .vram2 (w.lwta + 4 * y + 2)).toNat % 1024 else w.ex := by
  unfold windowRange
  split
  · exact ⟨toNat_extractLsb'_low _ 10, toNat_extractLsb'_low _ 10⟩
  · exact ⟨rfl, rfl⟩

/-- A pixel lies in a window when its line and its column lie between the starts and the ends. -/
theorem insideWindow_iff_range (m : Arena) (w : WindowRegs) (y x : Nat) :
    insideWindow m w y x = true ↔
      w.sy ≤ y ∧ y ≤ w.ey ∧
        (if w.lwe then (m.read16 .vram2 (w.lwta + 4 * y)).toNat % 1024 else w.sx) ≤ x ∧
        x ≤ if w.lwe then (m.read16 .vram2 (w.lwta + 4 * y + 2)).toNat % 1024 else w.ex := by
  obtain ⟨hstart, hend⟩ := windowRange_eq m w y
  rw [insideWindow_iff, hstart, hend]

/-! ### Window sets -/

/-- The term an enabled source adds to a window set (44_background.md rule R345). -/
def windowTerm (enabled invert inside : Bool) : List Bool := if enabled then [inside != invert] else []

theorem mem_windowTerm {enabled invert inside v : Bool} :
    v ∈ windowTerm enabled invert inside ↔ enabled = true ∧ v = (inside != invert) := by
  cases enabled <;> simp [windowTerm]

theorem windowTerm_any (enabled invert inside : Bool) :
    (windowTerm enabled invert inside).any id = true ↔ enabled = true ∧ inside ≠ invert := by
  simp [mem_windowTerm]

theorem windowTerm_all (enabled invert inside : Bool) :
    (windowTerm enabled invert inside).all id = true ↔ (enabled = true → inside ≠ invert) := by
  simp [mem_windowTerm]

theorem windowTerm_eq_nil {enabled invert inside : Bool} : windowTerm enabled invert inside = [] ↔ enabled = false := by
  cases enabled <;> simp [windowTerm]

/-- The terms of a window set, one for each of its enabled sources. -/
def windowTerms (ws : BitVec 7) (in0 in1 inS : Bool) : List Bool :=
  windowTerm (ws.getLsbD 0) (ws.getLsbD 1) in0 ++ windowTerm (ws.getLsbD 2) (ws.getLsbD 3) in1 ++
    windowTerm (ws.getLsbD 4) (ws.getLsbD 5) inS

theorem evalWindowSet_eq (ws : BitVec 7) (in0 in1 inS : Bool) :
    evalWindowSet ws in0 in1 inS =
      if (windowTerms ws in0 in1 inS).isEmpty then false
      else if ws.getLsbD 6 then (windowTerms ws in0 in1 inS).all id else (windowTerms ws in0 in1 inS).any id := rfl

/-- Without LOG one enabled source is enough; no term is true where there is none. -/
theorem evalWindowSet_or {ws : BitVec 7} (h : ws.getLsbD 6 = false) (in0 in1 inS : Bool) :
    evalWindowSet ws in0 in1 inS = (windowTerms ws in0 in1 inS).any id := by
  rw [evalWindowSet_eq, h]
  cases windowTerms ws in0 in1 inS <;> rfl

/-- With LOG every enabled source has to count, and there has to be one. -/
theorem evalWindowSet_and {ws : BitVec 7} (h : ws.getLsbD 6 = true) (in0 in1 inS : Bool) :
    evalWindowSet ws in0 in1 inS = true ↔
      windowTerms ws in0 in1 inS ≠ [] ∧ (windowTerms ws in0 in1 inS).all id = true := by
  rw [evalWindowSet_eq, h]
  cases windowTerms ws in0 in1 inS <;> simp

/-- Settles O44: a window is read by its range, a window set by the list of its enabled sources' terms. -/
theorem windowSetsCombineTheirSources : Obligations.WindowSetsCombineTheirSources := by
  unfold Obligations.WindowSetsCombineTheirSources
  refine ⟨fun c m y x => ⟨insideWindow_iff_range m c.window0 y x, insideWindow_iff_range m c.window1 y x⟩,
    fun ws in0 in1 inS => ⟨fun h => ?_, fun h => ?_⟩⟩
  · rw [evalWindowSet_or h, windowTerms, List.any_append, List.any_append, Bool.or_eq_true, Bool.or_eq_true,
      windowTerm_any, windowTerm_any, windowTerm_any, or_assoc]
  · rw [evalWindowSet_and h, windowTerms, List.all_append, List.all_append]
    simp only [Ne, List.append_eq_nil_iff, windowTerm_eq_nil, not_and_or, Bool.not_eq_false, Bool.and_eq_true,
      windowTerm_all, and_assoc]

end Sys2Proof.Machine
end

section
/-! Colours and dots: the entries of colour memory, and what a dot decodes to in each format (30_encoding.md rule R129;
44_background.md rules R335 to R338). -/

namespace Sys2Proof.Machine

/-! ### Colour memory -/

theorem rgb888_toNat (l : Long) :
    (rgb888 l).r.toNat = l.toNat % 256 ∧ (rgb888 l).g.toNat = l.toNat / 256 % 256 ∧
      (rgb888 l).b.toNat = l.toNat / 65536 % 256 := by
  simp only [rgb888, toNat_extractLsb'_eq, Nat.pow_zero, Nat.div_one, Nat.reducePow, and_self]

/-- In the modes 0 and 1 an entry is a word; the modes differ in the number of entries. -/
theorem cramEntry_word {c : Cfg2} {n : Nat} (h : (c.crmd = 0 ∧ n = 1024) ∨ (c.crmd = 1 ∧ n = 2048)) (m : Arena)
    (i : Nat) :
    cramEntry c m i = (rgb555 (m.read16 .cram (i % n * 2)), (m.read16 .cram (i % n * 2)).getLsbD 15) := by
  rcases h with ⟨h, rfl⟩ | ⟨h, rfl⟩
  · rw [cramEntry, h]; rfl
  · rw [cramEntry, h]; rfl

/-- In mode 2 an entry is a long. -/
theorem cramEntry_long {c : Cfg2} (h : c.crmd = 2) (m : Arena) (i : Nat) :
    cramEntry c m i = (rgb888 (m.read32 .cram (i % 1024 * 4)), (m.read32 .cram (i % 1024 * 4)).getLsbD 31) := by
  rw [cramEntry, h]; rfl

/-! ### The colour of a dot -/

/-- A value above a field of `k` bits that holds `n`. -/
theorem mul_two_pow_or {k n : Nat} (h : n < 2 ^ k) (v : Nat) : v * 2 ^ k ||| n = v * 2 ^ k + n := by
  rw [mul_comm, Nat.two_pow_add_eq_or_of_lt h]

/-- The palette bits of format 1 are bits 4 to 6 (44_background.md rule R335). -/
theorem and_paletteMask (pal : Nat) : pal &&& 0x70 = pal / 16 % 8 * 16 := by
  have hmask : 0x70 = (2 ^ 3 - 1) * 2 ^ 4 := rfl
  have hfield : pal / 16 % 8 * 16 = pal / 2 ^ 4 % 2 ^ 3 * 2 ^ 4 := rfl
  rw [hmask, hfield]
  refine Nat.eq_of_testBit_eq fun i => ?_
  simp only [Nat.testBit_and, Nat.testBit_mul_two_pow, Nat.testBit_two_pow_sub_one, Nat.testBit_mod_two_pow,
    Nat.testBit_div_two_pow]
  by_cases hi : 4 ≤ i
  · simp [hi, Bool.and_comm]
  · simp [hi]

/-- The index of a dot of a palette format: the palette bits of its format above the dot (44_background.md rule
R335). -/
theorem dotColor_palette {c : Cfg2} {L : Slot} {dot pal i : Nat}
    (h : (c.chcn L = 0 ∧ dot < 16 ∧ i = pal * 16 + dot) ∨ (c.chcn L = 1 ∧ dot < 256 ∧ i = pal / 16 % 8 * 256 + dot) ∨
      (c.chcn L = 2 ∧ i = dot)) (m : Arena) :
    dotColor c m L dot pal =
      ((cramEntry c m (i + c.caos L * 256)).1, (cramEntry c m (i + c.caos L * 256)).2, decide (dot = 0)) := by
  rcases h with ⟨h, hdot, rfl⟩ | ⟨h, hdot, rfl⟩ | ⟨h, rfl⟩
  · have hindex : pal * 16 ||| dot = pal * 16 + dot := mul_two_pow_or (k := 4) hdot pal
    rw [dotColor, h, ← hindex]; rfl
  · have hindex : (pal &&& 0x70) * 16 ||| dot = pal / 16 % 8 * 256 + dot := by
      rw [and_paletteMask, mul_assoc]
      exact mul_two_pow_or (k := 8) hdot _
    rw [dotColor, h, ← hindex]; rfl
  · rw [dotColor, h]; rfl

/-- The top bit of a value of `w + 1` bits tells the upper half of the values. -/
theorem testBit_top {n w : Nat} (h : n < 2 ^ (w + 1)) : n.testBit w = decide (2 ^ w ≤ n) := by
  by_cases hle : 2 ^ w ≤ n
  · rw [decide_eq_true hle, Nat.testBit_of_two_pow_le_and_two_pow_add_one_gt hle h]
  · rw [decide_eq_false hle, Nat.testBit_lt_two_pow (Nat.lt_of_not_le hle)]

theorem not_testBit_top {n w : Nat} (h : n < 2 ^ (w + 1)) : (!n.testBit w) = decide (n < 2 ^ w) := by
  rw [testBit_top h]
  exact decide_not.symm.trans (decide_eq_decide.2 Nat.not_le)

/-- A 15-bit direct colour; its top bit is the opposite of the transparent code. -/
theorem dotColor_rgb555 {c : Cfg2} {L : Slot} {dot : Nat} (h : c.chcn L = 3) (hdot : dot < 2 ^ 16) (m : Arena)
    (pal : Nat) :
    dotColor c m L dot pal = (rgb555 (BitVec.ofNat 16 dot), decide (2 ^ 15 ≤ dot), decide (dot < 2 ^ 15)) := by
  rw [← testBit_top hdot, ← not_testBit_top hdot, dotColor, h]; rfl

/-- A 24-bit direct colour; its top bit is the opposite of the transparent code. -/
theorem dotColor_rgb888 {c : Cfg2} {L : Slot} {dot : Nat} (h : c.chcn L = 4) (hdot : dot < 2 ^ 32) (m : Arena)
    (pal : Nat) :
    dotColor c m L dot pal = (rgb888 (BitVec.ofNat 32 dot), decide (2 ^ 31 ≤ dot), decide (dot < 2 ^ 31)) := by
  rw [← testBit_top hdot, ← not_testBit_top hdot, dotColor, h]; rfl

/-! ### Priority and colour calculation -/

theorem bitPriority_toNat (p : BitVec 3) (b : Bool) :
    ((p &&& 6#3) ||| (BitVec.ofBool b).setWidth 3).toNat = p.toNat / 2 * 2 + b.toNat := by
  revert p b; decide

/-- The bit of the special function code a dot of a palette format selects (44_background.md rule R338). -/
theorem sfMatch_eq (c : Cfg2) (L : Slot) (dot : Nat) :
    sfMatch c L dot =
      decide (c.chcn L < 3 ∧ (if c.sfsel L then c.sfcodeB else c.sfcodeA) / 2 ^ (dot % 16 / 2) % 2 = 1) := by
  rw [sfMatch, Nat.testBit_eq_decide_div_mod_eq, Bool.decide_and]

/-- The priority of a dot by SPRM: the slot's, or its low bit replaced (44_background.md rule R336). -/
theorem dotPriority_cases (c : Cfg2) (L : Slot) (dot : Nat) (spr : Bool) :
    (c.sprm L = 0 ∨ c.sprm L = 3 → dotPriority c L dot spr = c.prin L) ∧
    (c.sprm L = 1 → (dotPriority c L dot spr).toNat = (c.prin L).toNat / 2 * 2 + spr.toNat) ∧
    (c.sprm L = 2 → (dotPriority c L dot spr).toNat = (c.prin L).toNat / 2 * 2 + (spr && sfMatch c L dot).toNat) := by
  refine ⟨fun h => ?_, fun h => ?_, fun h => ?_⟩
  · rcases h with h | h
    · rw [dotPriority, h]; rfl
    · rw [dotPriority, h]; rfl
  · rw [dotPriority, h]; exact bitPriority_toNat _ _
  · rw [dotPriority, h]; exact bitPriority_toNat _ _

/-- Whether a dot may blend, by SCCM (44_background.md rule R337). -/
theorem dotColorCalc_cases (c : Cfg2) (L : Slot) (dot : Nat) (scc msb : Bool) :
    (c.sccm L = 0 → dotColorCalc c L dot scc msb = true) ∧
    (c.sccm L = 1 → dotColorCalc c L dot scc msb = scc) ∧
    (c.sccm L = 2 → dotColorCalc c L dot scc msb = (scc && sfMatch c L dot)) ∧
    (c.sccm L = 3 → dotColorCalc c L dot scc msb = msb) := by
  refine ⟨fun h => ?_, fun h => ?_, fun h => ?_, fun h => ?_⟩ <;> rw [dotColorCalc, h] <;> rfl

/-! ### The statement -/

/-- Settles O45: colour, top bit and transparent code come from the format's equation of `dotColor`, priority and colour
calculation from their own modes. -/
theorem dotsDecodeByTheirFormat : Obligations.DotsDecodeByTheirFormat := by
  unfold Obligations.DotsDecodeByTheirFormat
  refine ⟨fun c m i => ⟨fun n h => ?_, fun h => ?_⟩, fun c m L dot pal spr scc => ?_⟩
  · rw [cramEntry_word h]
    obtain ⟨hr, hg, hb⟩ := rgb555_toNat (m.read16 .cram (i % n * 2))
    exact ⟨hr, hg, hb, rfl⟩
  · rw [cramEntry_long h]
    obtain ⟨hr, hg, hb⟩ := rgb888_toNat (m.read32 .cram (i % 1024 * 4))
    exact ⟨hr, hg, hb, rfl⟩
  · obtain ⟨hpri0, hpri1, hpri2⟩ := dotPriority_cases c L dot spr
    obtain ⟨hcc0, hcc1, hcc2, hcc3⟩ := dotColorCalc_cases c L dot scc (dotColor c m L dot pal).2.1
    dsimp only [decodeDot]
    rw [← sfMatch_eq]
    refine ⟨fun i h => ?_, fun h hdot => ?_, fun h hdot => ?_, hpri0, hpri1, hpri2, hcc0, hcc1, hcc2⟩
    · rw [dotColor_palette h] at hcc3 ⊢
      exact ⟨rfl, rfl, hcc3⟩
    · rw [dotColor_rgb555 h hdot] at hcc3 ⊢
      obtain ⟨hr, hg, hb⟩ := rgb555_toNat (BitVec.ofNat 16 dot)
      rw [BitVec.toNat_ofNat, Nat.mod_eq_of_lt hdot] at hr hg hb
      exact ⟨hr, hg, hb, rfl, hcc3⟩
    · rw [dotColor_rgb888 h hdot] at hcc3 ⊢
      obtain ⟨hr, hg, hb⟩ := rgb888_toNat (BitVec.ofNat 32 dot)
      rw [BitVec.toNat_ofNat, Nat.mod_eq_of_lt hdot] at hr hg hb
      exact ⟨hr, hg, hb, rfl, hcc3⟩

end Sys2Proof.Machine
end

section
/-! Where a dot is fetched from: packed dots, cells, maps and bitmaps (44_background.md rules R330, R331, R333;
30_encoding.md rules R127, R128, R130). -/

namespace Sys2Proof.Machine

/-! ### Packed dots -/

/-- In format 0 a byte holds two dots, the even one in its high nibble (30_encoding.md rule R128). -/
theorem packedDot_nibble (m : Arena) (base n : Nat) :
    packedDot m 0 base n =
      if n % 2 = 0 then (m.read8 .vram2 (base + n / 2)).toNat / 16 else (m.read8 .vram2 (base + n / 2)).toNat % 16 := by
  unfold packedDot
  exact ite_congr rfl (fun _ => toNat_extractLsb'_top (lo := 4) (w := 4) _ rfl) fun _ => toNat_extractLsb'_low _ 4

theorem packedDot_eleven (m : Arena) (base n : Nat) :
    packedDot m 2 base n = (m.read16 .vram2 (base + n * 2)).toNat % 2048 := toNat_extractLsb'_low _ 11

/-! ### Cells -/

/-- The bytes of a cell in each of the five formats (30_encoding.md rule R128). -/
theorem cellBytes_of_mem {chcn cellSize : Nat}
    (h : (chcn, cellSize) ∈ [(0, 32), (1, 64), (2, 128), (3, 128), (4, 256)]) : cellBytes chcn = cellSize := by
  simp only [List.mem_cons, Prod.mk.injEq, List.not_mem_nil, or_false] at h
  rcases h with ⟨rfl, rfl⟩ | ⟨rfl, rfl⟩ | ⟨rfl, rfl⟩ | ⟨rfl, rfl⟩ | ⟨rfl, rfl⟩ <;> rfl

/-- A dot of a character, its cell and its palette taken from the pattern name (44_background.md rule R331). -/
theorem charDot_eq (c : Cfg2) (m : Arena) (L : Slot) (pn : Long) (cx cy : Nat) :
    let x := if pn.getLsbD 30 then charSide c L - 1 - cx else cx
    let y := if pn.getLsbD 31 then charSide c L - 1 - cy else cy
    charDot c m L pn cx cy =
      decodeDot c m L
        (packedDot m (c.chcn L)
          ((pn.toNat % 0x8000 * 0x20 + (y / 8 * 2 + x / 8) * cellBytes (c.chcn L)) % 0x80000) (y % 8 * 8 + x % 8))
        (pn.toNat / 0x10000 % 0x80) (pn.getLsbD 29) (pn.getLsbD 28) := by
  dsimp only [charDot]
  rw [toNat_extractLsb'_low, toNat_extractLsb'_eq]
  rfl

/-! ### Maps -/

/-- A map dot lies at the remainders of its position in its plane, its page and its character. -/
theorem tileDot_of_mod {c : Cfg2} {L : Slot} {sx sy : Int} {n X Y : Nat}
    (hX : (X : Int) = sx % ((512 * planePagesX c L * n : Nat) : Int))
    (hY : (Y : Int) = sy % ((512 * planePagesY c L * n : Nat) : Int)) (m : Arena) :
    tileDot c m L sx sy n =
      charDot c m L (m.read32 .vram2 (patternNameAddr c L X Y n)) (X % (512 * planePagesX c L) % 512 % charSide c L)
        (Y % (512 * planePagesY c L) % 512 % charSide c L) := by
  rw [tileDot, ← hX, ← hY, Int.toNat_natCast, Int.toNat_natCast, Nat.mod_mul_right_mod, Nat.mod_mul_right_mod]

/-- A map repeats in both directions. -/
theorem tileDot_periodic (c : Cfg2) (m : Arena) (L : Slot) (sx sy i j : Int) (n : Nat) :
    tileDot c m L (sx + i * (512 * planePagesX c L * n : Nat)) (sy + j * (512 * planePagesY c L * n : Nat)) n =
      tileDot c m L sx sy n := by
  rw [tileDot, Int.add_mul_emod_self_right, Int.add_mul_emod_self_right]
  rfl

/-! ### Bitmaps -/

theorem bitmapSize_of_mem {c : Cfg2} {L : Slot} {bw bh : Nat}
    (h : (c.bmsz L, bw, bh) ∈ [(0, 512, 256), (1, 512, 512), (2, 1024, 256), (3, 1024, 512)]) :
    bitmapWidth c L = bw ∧ bitmapHeight c L = bh := by
  simp only [List.mem_cons, Prod.mk.injEq, List.not_mem_nil, or_false] at h
  rcases h with ⟨h, rfl, rfl⟩ | ⟨h, rfl, rfl⟩ | ⟨h, rfl, rfl⟩ | ⟨h, rfl, rfl⟩ <;>
    rw [bitmapWidth, bitmapHeight, h] <;> exact ⟨rfl, rfl⟩

/-- A bitmap dot lies at the remainders of its position. -/
theorem bitmapDot_of_mod {c : Cfg2} {L : Slot} {sx sy : Int} {X Y : Nat} (hX : (X : Int) = sx % (bitmapWidth c L : Int))
    (hY : (Y : Int) = sy % (bitmapHeight c L : Int)) (m : Arena) :
    bitmapDot c m L sx sy =
      decodeDot c m L (packedDot m (c.chcn L) (c.bmbase L * 0x20000) (Y * bitmapWidth c L + X)) (c.bmpal L * 16)
        (c.bmspr L) (c.bmscc L) := by
  rw [bitmapDot, ← hX, ← hY, Int.toNat_natCast, Int.toNat_natCast]

/-! ### The statement -/

/-- Settles O46: a format's packing, a cell's address, a map's pattern name and a bitmap's index are one equation each;
the sizes in pages and dots are those of the slot's fields. -/
theorem tilesAndBitmapsAddressTheirDots : Obligations.TilesAndBitmapsAddressTheirDots := by
  unfold Obligations.TilesAndBitmapsAddressTheirDots
  refine ⟨fun m base n => ⟨packedDot_nibble m base n, rfl, packedDot_eleven m base n, rfl, rfl⟩,
    fun c m L pn cx cy cellSize hcell _ _ => ?_, fun c m L sx sy n X Y _ hX hY => ?_,
    fun c m L sx sy bw bh X Y hsize hX hY => ?_⟩
  · rw [← cellBytes_of_mem hcell]
    exact charDot_eq c m L pn cx cy
  · obtain ⟨hpx, hpy⟩ := planePages_eq c L
    dsimp only at hX hY ⊢
    rw [← hpx] at hX ⊢
    rw [← hpy] at hY ⊢
    exact ⟨tileDot_of_mod hX hY m, fun i j => tileDot_periodic c m L sx sy i j n⟩
  · obtain ⟨rfl, rfl⟩ := bitmapSize_of_mem hsize
    exact bitmapDot_of_mod hX hY m

end Sys2Proof.Machine
end

section
/-! Which slots are on: the ON fields and the two rotation layers (44_background.md rule R320; 10_state.md rule R61). -/

namespace Sys2Proof.Machine

theorem scrollSlot_cases {L : Slot} (hL : L ∈ [Slot.nbg0, .nbg1, .nbg2, .nbg3]) :
    L = .nbg0 ∨ L = .nbg1 ∨ L = .nbg2 ∨ L = .nbg3 := by simpa using hL

/-- While both rotation layers are on, slot 2 is the second of them and slots 3 to 5 are off. -/
theorem enabled_of_rotExclusive {c : Cfg2} (h : c.rotExclusive = true) :
    c.enabled .nbg1 = false ∧ c.enabled .nbg2 = false ∧ c.enabled .nbg3 = false ∧ c.enabled .nbg0 = true ∧
      c.isRotation .nbg0 = true := by
  simp [Cfg2.enabled, Cfg2.isRotation, h]

/-- Otherwise the slots 2 to 5 are scrollable and ON enables them. -/
theorem enabled_of_not_rotExclusive {c : Cfg2} (h : c.rotExclusive = false) {L : Slot}
    (hL : L ∈ [Slot.nbg0, .nbg1, .nbg2, .nbg3]) : c.enabled L = c.on L ∧ c.isRotation L = false := by
  rcases scrollSlot_cases hL with rfl | rfl | rfl | rfl <;> simp [Cfg2.enabled, Cfg2.isRotation, h]

/-- Settles O49: a disabled slot's line is clear, and the two modes are the values of `rotExclusive`. -/
theorem disabledSlotsAreTransparent : Obligations.DisabledSlotsAreTransparent := by
  unfold Obligations.DisabledSlotsAreTransparent
  refine ⟨fun c m a w b L x he hx => backgroundLayer_dot_disabled he hx,
    fun c => ⟨⟨rfl, rfl, rfl⟩, fun hr h1 => ?_, fun h => ?_⟩⟩
  · exact enabled_of_rotExclusive (by rw [Cfg2.rotExclusive, hr, h1]; rfl)
  · have hnot : c.rotExclusive = false := Bool.and_eq_false_iff.2 h
    exact fun L hL => enabled_of_not_rotExclusive hnot hL

end Sys2Proof.Machine
end

section
/-! The scrollable layers: their accumulators, line scroll, vertical cell scroll, mosaic and the dot shown; the back and
line colours (44_background.md rules R322 to R328, R340, R380; 30_encoding.md rules R131, R132, R134). -/

namespace Sys2Proof.Machine

/-! ### The accumulators of a slot -/

/-- A scrollable slot's accumulator at frame initialisation (44_background.md rule R322). -/
theorem frameInitAcc_scroll {L : Slot} (hL : L ∈ [Slot.nbg0, .nbg1, .nbg2, .nbg3]) (c : Cfg2) (m : Arena)
    (a : Accumulators) : (frameInitAcc c m a).scroll L = scrollFrameInit c L (a.scroll L) := by
  rcases scrollSlot_cases hL with rfl | rfl | rfl | rfl <;> rfl

/-- A scrollable slot's accumulator on a line: its old one after line scroll (44_background.md rule R324). -/
theorem lineAcc_scroll {L : Slot} (hL : L ∈ [Slot.nbg0, .nbg1, .nbg2, .nbg3]) (s : State) (y : Nat) :
    (lineAcc s y).scroll L = lineScrollSlot s.cfg2 s.mem y L (s.acc.scroll L) := by
  rcases scrollSlot_cases hL with rfl | rfl | rfl | rfl <;> rfl

/-- Two rotation layers leave no scrollable one; otherwise ON enables a slot (10_state.md rule R61). -/
theorem enabledScroll_eq {L : Slot} (hL : L ∈ [Slot.nbg0, .nbg1, .nbg2, .nbg3]) (c : Cfg2) :
    c.enabledScroll L = (c.on L && !(c.on .rbg0 && c.r1on)) := by
  change _ = (c.on L && !c.rotExclusive)
  cases h : c.rotExclusive with
  | true =>
    obtain ⟨h1, h2, h3, -, hrot⟩ := enabled_of_rotExclusive h
    rcases scrollSlot_cases hL with rfl | rfl | rfl | rfl <;> simp [Cfg2.enabledScroll, h1, h2, h3, hrot]
  | false =>
    obtain ⟨he, hr⟩ := enabled_of_not_rotExclusive h hL
    have hne : L ≠ .sprite := by rintro rfl; simp at hL
    simp [Cfg2.enabledScroll, he, hr, hne]

/-! ### Line scroll -/

theorem getLsbD_iff {n : Nat} (v : BitVec n) (i : Nat) : v.getLsbD i = true ↔ v.toNat / 2 ^ i % 2 = 1 := by
  rw [BitVec.getLsbD, Nat.testBit_eq_decide_div_mod_eq, decide_eq_true_iff]

theorem readsLineRecord_iff (c : Cfg2) (L : Slot) (y : Nat) :
    readsLineRecord c L y = true ↔
      (c.lsctl L).toNat % 8 ≠ 0 ∧ y % 2 ^ ((c.lsctl L).toNat / 8 % 4) = 0 := by
  have hlow : (c.lsctl L).extractLsb' 0 3 ≠ 0#3 ↔ (c.lsctl L).toNat % 8 ≠ 0 := by
    rw [Ne, ← BitVec.toNat_inj, toNat_extractLsb'_low]; rfl
  rw [readsLineRecord, Bool.and_eq_true, bne_iff_ne, beq_iff_eq, hlow, toNat_extractLsb'_eq]
  rfl

theorem scrollValue_eq (l : Long) : scrollValue l = l.toNat / 256 % 2 ^ 19 := toNat_extractLsb'_eq l 8 19

theorem incrementValue_eq (l : Long) : incrementValue l = l.toNat / 256 % 2 ^ 11 := toNat_extractLsb'_eq l 8 11

/-- The address of the `k`-th long of a line's record, the enabled longs before it read (44_background.md rule R324). -/
def lineLongAddr (ctl : BitVec 6) (start : Nat) : Nat → Nat
  | 0 => start
  | k + 1 => lineLongAddr ctl start k + if ctl.getLsbD k then 4 else 0

theorem lineScrollSlot_disabled {c : Cfg2} {L : Slot} (h : c.enabledScroll L = false) (m : Arena) (y : Nat)
    (a : ScrollAcc) : lineScrollSlot c m y L a = a := if_neg (by simp [h])

/-- A line that reads a record: the enabled longs, the others plain, and the address moved past them. -/
theorem lineScrollSlot_due {c : Cfg2} {L : Slot} {y : Nat} (h : c.enabledScroll L = true)
    (hd : readsLineRecord c L y = true) (m : Arena) (a : ScrollAcc) :
    let ctl := c.lsctl L
    let addr := lineLongAddr ctl a.lsAddr.toNat
    lineScrollSlot c m y L a =
      { fracY := a.fracY
        lsAddr := BitVec.ofNat 19 (addr 3)
        lsX := if ctl.getLsbD 0 then scrollValue (m.read32 .vram2 (addr 0)) else 0
        lsY := if ctl.getLsbD 1 then scrollValue (m.read32 .vram2 (addr 1)) else 0
        lzX := if ctl.getLsbD 2 then incrementValue (m.read32 .vram2 (addr 2)) else c.zmx L } := by
  dsimp only
  rw [lineScrollSlot, if_pos h, if_pos hd]
  simp only [readLineRecord, lineLongAddr, add_ite, add_zero]
  congr 1 <;> split <;> rfl

/-- Any other line keeps what the last record gave. -/
theorem lineScrollSlot_kept {c : Cfg2} {L : Slot} {y : Nat} (h : c.enabledScroll L = true)
    (hd : readsLineRecord c L y = false) (m : Arena) (a : ScrollAcc) :
    lineScrollSlot c m y L a =
      { fracY := a.fracY
        lsAddr := a.lsAddr
        lsX := if (c.lsctl L).getLsbD 0 then a.lsX else 0
        lsY := if (c.lsctl L).getLsbD 1 then a.lsY else 0
        lzX := if (c.lsctl L).getLsbD 2 then a.lzX else c.zmx L } := by
  rw [lineScrollSlot, if_pos h, if_neg (by simp [hd])]

/-! ### Vertical cell scroll, mosaic -/

/-- The entry `i` of the vertical cell scroll table (30_encoding.md rule R132). -/
def cellScrollEntry (c : Cfg2) (m : Arena) (i : Nat) : Nat :=
  (m.read32 .vram2 (c.vcsta + 4 * i)).toNat / 256 % 2 ^ 19

/-- Slot 2 takes the first entry of each cell, of one or of two (44_background.md rule R325). -/
theorem verticalCellScroll_nbg0 (c : Cfg2) (m : Arena) (x : Nat) :
    verticalCellScroll c m .nbg0 x =
      if cellScrolls c .nbg0 then cellScrollEntry c m (if cellScrolls c .nbg1 then x / 8 * 2 else x / 8) else 0 := by
  rw [verticalCellScroll]
  split
  · next h => rw [scrollValue_eq]; cases cellScrolls c .nbg1 <;> simp [h, cellScrollEntry]
  · rfl

/-- Slot 3 takes the second of two entries, or the only one (44_background.md rule R325). -/
theorem verticalCellScroll_nbg1 (c : Cfg2) (m : Arena) (x : Nat) :
    verticalCellScroll c m .nbg1 x =
      if cellScrolls c .nbg1 then cellScrollEntry c m (if cellScrolls c .nbg0 then x / 8 * 2 + 1 else x / 8)
      else 0 := by
  rw [verticalCellScroll]
  split
  · rw [scrollValue_eq]; cases cellScrolls c .nbg0 <;> simp [cellScrollEntry]
  · rfl

theorem verticalCellScroll_off {c : Cfg2} {L : Slot} (h : (c.lsctl L).getLsbD 5 = false) (m : Arena) (x : Nat) :
    verticalCellScroll c m L x = 0 := if_neg (by rw [cellScrolls, h]; simp)

theorem mosaicX_eq (c : Cfg2) (L : Slot) (x : Nat) :
    mosaicX c L x = if c.mze L then x / (c.mzszh + 1) * (c.mzszh + 1) else x := by
  rw [Nat.div_mul_self_eq_mod_sub_self]; rfl

/-! ### The dot shown -/

/-- A scrolled dot is that of its map or bitmap at the whole part of its position (44_background.md rule R328). -/
theorem scrollDot_at {c : Cfg2} {m : Arena} {a : Accumulators} {L : Slot} {x : Nat} {sx sy : Int}
    (hx : sx = (c.scx L + (a.scroll L).lsX + mosaicX c L x * (a.scroll L).lzX) / 256)
    (hy : sy = (c.scy L + (a.scroll L).fracY + (a.scroll L).lsY + verticalCellScroll c m L (mosaicX c L x)) / 256) :
    scrollDot c m a L x = if c.bmen L then bitmapDot c m L sx sy else tileDot c m L sx sy 2 := by
  rw [hx, hy]; rfl

/-- On plain settings a pixel shows the dot of its own position. -/
theorem scrollDot_plain {c : Cfg2} {a : Accumulators} {L : Slot} {y : Nat} (hx : c.scx L = 0) (hy : c.scy L = 0)
    (hm : c.mze L = false) (hv : (c.lsctl L).getLsbD 5 = false) (ha : a.scroll L = ⟨256 * y, 0, 0, 0, 256⟩) (m : Arena)
    (x : Nat) : scrollDot c m a L x = if c.bmen L then bitmapDot c m L x y else tileDot c m L x y 2 := by
  have hmx : mosaicX c L x = x := by simp [mosaicX, hm]
  refine scrollDot_at ?_ ?_
  · simp [hx, hmx, ha]
  · simp [hy, verticalCellScroll_off hv, ha]

/-! ### The back and line colours -/

theorem lineAcc_lineColor (s : State) (y : Nat) :
    (lineAcc s y).lineColor =
      (cramEntry s.cfg2 s.mem
        ((s.mem.read16 .vram2 (s.cfg2.lcta + 2 * if s.cfg2.lcclmd then y else 0)).toNat % 2048)).1 :=
  congrArg (fun i => (cramEntry s.cfg2 s.mem i).1) (toNat_extractLsb'_low _ 11)

/-! ### The statement -/

/-- Settles O47: the accumulators are those of their slots, a line either reads a record or keeps the last one, and the
dot shown is that of its position, which on plain settings is the pixel's own. -/
theorem scrollLayersFollowTheirTables : Obligations.ScrollLayersFollowTheirTables := by
  unfold Obligations.ScrollLayersFollowTheirTables
  refine ⟨fun c m a => ⟨fun L hL => frameInitAcc_scroll hL c m a, rfl, rfl⟩, fun c L hL => enabledScroll_eq hL c,
    fun s y L hL => ?_, fun s y => ?_, fun c m x => ?_, mosaicX_eq, fun c m a L x sx sy hx hy => ?_,
    fun c m a L x y hx hy hm hv ha => scrollDot_plain hx hy hm hv ha m x⟩
  · have h0 := getLsbD_iff (s.cfg2.lsctl L) 0
    have h1 := getLsbD_iff (s.cfg2.lsctl L) 1
    have h2 := getLsbD_iff (s.cfg2.lsctl L) 2
    simp only [Nat.reducePow, Nat.div_one] at h0 h1 h2
    rw [lineAcc_scroll hL]
    simp only [← readsLineRecord_iff, ← h0, ← h1, ← h2]
    refine ⟨fun he => lineScrollSlot_disabled he _ _ _, fun he => ?_⟩
    cases hd : readsLineRecord s.cfg2 L y with
    | false =>
      rw [lineScrollSlot_kept he hd]
      exact ⟨rfl, rfl, rfl, rfl, rfl⟩
    | true =>
      rw [lineScrollSlot_due he hd, scrollValue_eq, scrollValue_eq, incrementValue_eq]
      exact ⟨rfl, BitVec.toNat_ofNat _ 19, rfl, rfl, rfl⟩
  · obtain ⟨hr, hg, hb⟩ := rgb555_toNat (s.mem.read16 .vram2 (s.cfg2.bkta + 2 * if s.cfg2.bkclmd then y else 0))
    exact ⟨hr, hg, hb, lineAcc_lineColor s y, rfl, rfl⟩
  · exact ⟨verticalCellScroll_nbg0 c m x, verticalCellScroll_nbg1 c m x, rfl, rfl⟩
  · exact scrollDot_at (by rw [hx, Cfg2.scx]; push_cast; rfl) (by rw [hy, Cfg2.scy]; push_cast; rfl)

end Sys2Proof.Machine
end

section
/-! What is refused while it is in force: the sprite modes and the background configurations that are not admitted
(93_implementation_defined.md U6, U7; 44_background.md rule R321). -/

namespace Sys2Proof.Machine

/-! ### Admitted configurations -/

theorem spriteAdmitted_iff (s : State) : s.spriteAdmitted = true ↔ s.reg1.tvMode = 0 ∧ s.cfg2.sptype < 8 := by
  simp [State.spriteAdmitted]

theorem not_spriteAdmitted {s : State} (h : s.reg1.tvMode ≠ 0 ∨ 8 ≤ s.cfg2.sptype) : s.spriteAdmitted = false := by
  rw [← Bool.not_eq_true, spriteAdmitted_iff, not_and_or, Nat.not_lt]
  exact h

theorem slotAdmitted_iff (c : Cfg2) (L : Slot) :
    c.slotAdmitted L = true ↔ (c.enabled L = true → c.chcn L < 5 ∧ (c.bmen L = false → c.plsz L ≠ 2)) := by
  rw [Cfg2.slotAdmitted]
  cases c.enabled L <;> cases c.bmen L <;> simp

/-- The background slots are those that are not the sprite layer. -/
theorem backgroundAdmitted_iff (c : Cfg2) :
    c.backgroundAdmitted = true ↔
      c.crmd ≠ 3 ∧
        ∀ L, L ≠ .sprite → c.enabled L = true → c.chcn L < 5 ∧ (c.bmen L = false → c.plsz L ≠ 2) := by
  simp only [← slotAdmitted_iff, Cfg2.backgroundAdmitted, Bool.and_eq_true, bne_iff_ne, and_assoc]
  refine and_congr_right fun _ => ⟨fun ⟨h1, h2, h3, h4, h5⟩ L hL => ?_, fun h => ?_⟩
  · cases L with
    | sprite => exact absurd rfl hL
    | rbg0 => exact h1
    | nbg0 => exact h2
    | nbg1 => exact h3
    | nbg2 => exact h4
    | nbg3 => exact h5
  · exact ⟨h _ nofun, h _ nofun, h _ nofun, h _ nofun, h _ nofun⟩

theorem not_backgroundAdmitted {c : Cfg2}
    (h : c.crmd = 3 ∨
      ∃ L, L ≠ .sprite ∧ c.enabled L = true ∧ (c.chcn L ∈ [5, 6, 7] ∨ (c.bmen L = false ∧ c.plsz L = 2))) :
    c.backgroundAdmitted = false := by
  rw [← Bool.not_eq_true, backgroundAdmitted_iff]
  rintro ⟨hcrmd, hslots⟩
  rcases h with h | ⟨L, hL, he, hformat | ⟨hb, hp⟩⟩
  · exact hcrmd h
  · obtain ⟨hchcn, -⟩ := hslots L hL he
    simp only [List.mem_cons, List.not_mem_nil, or_false] at hformat
    omega
  · exact (hslots L hL he).2 hb hp

theorem admitted_iff (s : State) :
    s.admitted = true ↔ s.spriteAdmitted = true ∧ (s.cfg2.disp = true → s.cfg2.backgroundAdmitted = true) := by
  rw [State.admitted, Bool.and_eq_true]
  cases s.cfg2.disp <;> simp

/-! ### Refused scanlines -/

theorem renderScanline_refused_spriteMode {s : State} (hd : s.cfg2.disp = true) (h : s.spriteAdmitted = false)
    (y : Nat) : renderScanline s y = .refused .spriteMode := by
  rw [renderScanline, if_pos hd, guardSprite_refused h]

theorem renderScanline_refused_backgroundConfig {s : State} (hd : s.cfg2.disp = true) (h : s.spriteAdmitted = true)
    (hb : s.cfg2.backgroundAdmitted = false) (y : Nat) : renderScanline s y = .refused .backgroundConfig := by
  rw [renderScanline, if_pos hd, guardSprite_admitted h, if_neg (by simp [hb])]

/-- The phase event that renders a scanline is refused with it. -/
theorem phaseEvent_refused_scanline {s : State} {r : Refusal} (hh : s.timing.hphase = .lastDot)
    (hv : s.timing.vphase = .active) (h : renderScanline s.atScanline s.timing.vcnt = .refused r) :
    phaseEvent s = .refused r := by
  have henter : enterHActive (s.inHPhase .active) = .refused r := by
    rw [← h]
    exact (enterHActive_active (s := s.inHPhase .active) hv).trans (by rw [frameInit_if]; rfl)
  rw [phaseEvent_of hh]
  exact congrArg (andThen · fun s1 => .next s1.returnCycles) henter

/-! ### The statement -/

/-- Settles O39: the guards of the operations, the erase, the swap and the scanline refuse what `spriteAdmitted` and
`backgroundAdmitted` exclude. -/
theorem reservedConfigurationsAreRefused : Obligations.ReservedConfigurationsAreRefused := by
  unfold Obligations.ReservedConfigurationsAreRefused
  refine ⟨fun s => ?_, fun s h => ?_, fun s hh hv hd => ⟨fun h => ?_, fun htv hsp h => ?_⟩⟩
  · dsimp only
    rw [← spriteAdmitted_iff, ← backgroundAdmitted_iff]
    exact ⟨Iff.rfl, Iff.rfl, admitted_iff s⟩
  · have hs := not_spriteAdmitted h
    exact ⟨fun i hi => exec_refused hi hs, guardSprite_refused hs _, guardSprite_refused hs _⟩
  · exact phaseEvent_refused_scanline hh hv
      (renderScanline_refused_spriteMode (s := s.atScanline) hd (not_spriteAdmitted h) _)
  · exact phaseEvent_refused_scanline hh hv
      (renderScanline_refused_backgroundConfig (s := s.atScanline) hd ((spriteAdmitted_iff s).2 ⟨htv, hsp⟩)
        (not_backgroundAdmitted h) _)

end Sys2Proof.Machine
end

section
/-! The arithmetic of the compositor: what each function of the channels gives, as a number
(45_compositor.md rules R414, R416, R418, R420). -/

namespace Sys2Proof.Machine

/-! ### Functions of the channels -/

/-- A function that keeps a channel below 256 gives each channel its own value. -/
theorem mapChannels_toNat {f : Nat → Nat} (hf : ∀ u < 256, f u < 256) (p : Color) :
    (mapChannels f p).r.toNat = f p.r.toNat ∧ (mapChannels f p).g.toNat = f p.g.toNat ∧
      (mapChannels f p).b.toNat = f p.b.toNat := by
  have channel (u : Byte) : (BitVec.ofNat 8 (f u.toNat)).toNat = f u.toNat :=
    (BitVec.toNat_ofNat _ 8).trans (Nat.mod_eq_of_lt (hf _ u.isLt))
  exact ⟨channel p.r, channel p.g, channel p.b⟩

/-- A function that keeps two channels below 256 gives each pair of channels its own value. -/
theorem zipChannels_toNat {f : Nat → Nat → Nat} (hf : ∀ u < 256, ∀ v < 256, f u v < 256) (p q : Color) :
    (zipChannels f p q).r.toNat = f p.r.toNat q.r.toNat ∧ (zipChannels f p q).g.toNat = f p.g.toNat q.g.toNat ∧
      (zipChannels f p q).b.toNat = f p.b.toNat q.b.toNat := by
  have channel (u v : Byte) : (BitVec.ofNat 8 (f u.toNat v.toNat)).toNat = f u.toNat v.toNat :=
    (BitVec.toNat_ofNat _ 8).trans (Nat.mod_eq_of_lt (hf _ u.isLt _ v.isLt))
  exact ⟨channel p.r q.r, channel p.g q.g, channel p.b q.b⟩

/-- The weights of the ratio blend sum to 32, so two channels blend to a channel. -/
theorem ratio_lt {u v ratio : Nat} (hu : u < 256) (hv : v < 256) (hratio : ratio ≤ 31) :
    (u * (31 - ratio) + v * (ratio + 1)) / 32 < 256 := by
  have weighted : u * (31 - ratio) + v * (ratio + 1) ≤ 255 * 32 :=
    calc u * (31 - ratio) + v * (ratio + 1)
      _ ≤ 255 * (31 - ratio) + 255 * (ratio + 1) :=
        Nat.add_le_add (Nat.mul_le_mul_right _ (by omega)) (Nat.mul_le_mul_right _ (by omega))
      _ = 255 * 32 := by omega
  omega

theorem halved_toNat (p : Color) :
    (mapChannels (· / 2) p).r.toNat = p.r.toNat / 2 ∧ (mapChannels (· / 2) p).g.toNat = p.g.toNat / 2 ∧
      (mapChannels (· / 2) p).b.toNat = p.b.toNat / 2 :=
  mapChannels_toNat (fun u hu => by omega) p

theorem offsetChannel_toNat (v : Byte) (o : Int) :
    ((offsetChannel v o).toNat : Int) = max 0 (min 255 (v.toNat + o)) := by
  have hlt : (min (max (v.toNat + o) 0) 255).toNat < 2 ^ 8 := by omega
  rw [offsetChannel, BitVec.toNat_ofNat, Nat.mod_eq_of_lt hlt]
  omega

/-! ### The statement -/

/-- Settles O53: each formula of two channels stays below 256, so the byte that holds it loses nothing. -/
theorem colourArithmeticNeverWraps : Obligations.ColourArithmeticNeverWraps := by
  unfold Obligations.ColourArithmeticNeverWraps
  refine ⟨fun p q ratio hratio => ?_, fun p q => ?_, halved_toNat, offsetChannel_toNat⟩
  · exact zipChannels_toNat (fun u hu v hv => ratio_lt hu hv hratio) p q
  · obtain ⟨hr, hg, hb⟩ := zipChannels_toNat (f := fun u v => min 255 (u + v)) (fun u _ v _ => by omega) p q
    exact ⟨hr, hg, hb, zipChannels_toNat (fun u hu v hv => by omega) p q⟩

end Sys2Proof.Machine
end

section
/-! The selection: the slots of a pixel in the order of the selection, and its top entry (45_compositor.md rules R405 to
R407). -/

namespace Sys2Proof.Machine

/-! ### Inserting slots in turn -/

/-- The slots of a list inserted in turn, as `LineBuffers.ranked` does with the candidates. -/
def insertAll (pri : Slot → Nat) (acc slots : List Slot) : List Slot :=
  slots.foldl (fun acc L => insertByPriority pri L acc) acc

theorem mem_insertAll (pri : Slot → Nat) (M : Slot) (acc slots : List Slot) :
    M ∈ insertAll pri acc slots ↔ M ∈ acc ∨ M ∈ slots := by
  induction slots generalizing acc with
  | nil => simp [insertAll]
  | cons L rest ih =>
    change M ∈ insertAll pri (insertByPriority pri L acc) rest ↔ _
    rw [ih, mem_insertByPriority, List.mem_cons, or_comm (a := M = L), or_assoc]

/-- Slots inserted in index order, behind slots of lower numbers, are ranked by falling priority and by rising number
among equals. -/
theorem pairwise_insertAll (pri : Slot → Nat) (acc slots : List Slot)
    (hslots : slots.Pairwise fun L M => L.number < M.number) (hbefore : ∀ M ∈ acc, ∀ L ∈ slots, M.number < L.number)
    (hacc : acc.Pairwise fun L M => pri M < pri L ∨ (pri M = pri L ∧ L.number < M.number)) :
    (insertAll pri acc slots).Pairwise fun L M => pri M < pri L ∨ (pri M = pri L ∧ L.number < M.number) := by
  induction slots generalizing acc with
  | nil => exact hacc
  | cons L rest ih =>
    obtain ⟨hL, hrest⟩ := List.pairwise_cons.1 hslots
    refine ih (insertByPriority pri L acc) hrest (fun M hM N hN => ?_)
      (pairwise_insertByPriority pri L acc (fun M hM => hbefore M hM L List.mem_cons_self) hacc)
    rcases (mem_insertByPriority pri L M acc).1 hM with rfl | hM
    · exact hL N hN
    · exact hbefore M hM N (List.mem_cons_of_mem _ hN)

/-! ### The candidates of a pixel -/

theorem allSlots_pairwise : allSlots.Pairwise fun L M => L.number < M.number := by decide

theorem mem_allSlots (L : Slot) : L ∈ allSlots := by cases L <;> decide

theorem candidate_iff (b : LineBuffers) (x : Nat) (L : Slot) :
    b.candidate x L = true ↔
      (b.dot L x).transparent = false ∧ (b.dot L x).priority ≠ 0 ∧
        (L = .sprite → (b.sprite x).normalShadow = false) := by
  simp [LineBuffers.candidate, and_assoc, imp_iff_not_or]

/-- The candidates of a pixel in the order of the selection. -/
def LineBuffers.rankedSlots (b : LineBuffers) (x : Nat) : List Slot :=
  insertAll (fun M => (b.dot M x).priority.toNat) [] (allSlots.filter (b.candidate x))

theorem ranked_eq (b : LineBuffers) (x : Nat) : b.ranked x = (b.rankedSlots x).map Entry.slot ++ [.back] := rfl

theorem mem_rankedSlots (b : LineBuffers) (x : Nat) (L : Slot) : L ∈ b.rankedSlots x ↔ b.candidate x L = true := by
  simp [LineBuffers.rankedSlots, mem_insertAll, mem_allSlots]

theorem pairwise_rankedSlots (b : LineBuffers) (x : Nat) :
    (b.rankedSlots x).Pairwise fun L M =>
      (b.dot M x).priority.toNat < (b.dot L x).priority.toNat ∨
        ((b.dot M x).priority = (b.dot L x).priority ∧ L.number < M.number) := by
  simp only [← BitVec.toNat_inj]
  exact pairwise_insertAll _ [] _ (allSlots_pairwise.filter _) (by simp) List.Pairwise.nil

/-! ### The top entry -/

theorem ranked_head_slot_iff (b : LineBuffers) (x : Nat) (L : Slot) :
    (b.ranked x).head? = some (.slot L) ↔ (b.rankedSlots x).head? = some L := by
  rw [ranked_eq]
  cases b.rankedSlots x <;> simp

theorem ranked_head_back_iff (b : LineBuffers) (x : Nat) :
    (b.ranked x).head? = some .back ↔ b.rankedSlots x = [] := by
  rw [ranked_eq]
  cases b.rankedSlots x <;> simp

/-- The first of the ranked slots is a candidate, and every other candidate comes after it. -/
theorem rankedSlots_head {b : LineBuffers} {x : Nat} {L : Slot} (h : (b.rankedSlots x).head? = some L) :
    b.candidate x L = true ∧
      ∀ M, b.candidate x M = true →
        (b.dot M x).priority.toNat < (b.dot L x).priority.toNat ∨
          ((b.dot M x).priority = (b.dot L x).priority ∧ L.number ≤ M.number) := by
  obtain ⟨rest, hslots⟩ := List.head?_eq_some_iff.1 h
  have hpair := pairwise_rankedSlots b x
  simp only [← mem_rankedSlots]
  rw [hslots] at hpair ⊢
  refine ⟨List.mem_cons_self, fun M hM => ?_⟩
  rcases List.mem_cons.1 hM with rfl | hM
  · exact .inr ⟨rfl, le_rfl⟩
  · exact (List.rel_of_pairwise_cons hpair hM).imp_right fun ⟨hpri, hnum⟩ => ⟨hpri, hnum.le⟩

/-! ### The statement -/

/-- Settles O51: the slots are inserted in index order, and each insertion keeps the ranking. -/
theorem lowestSlotWinsEqualPriority : Obligations.LowestSlotWinsEqualPriority := by
  unfold Obligations.LowestSlotWinsEqualPriority
  refine fun b x => ⟨candidate_iff b x, ⟨b.rankedSlots x, ranked_eq b x, mem_rankedSlots b x, pairwise_rankedSlots b x⟩,
    fun L h => rankedSlots_head ((ranked_head_slot_iff b x L).1 h), ?_⟩
  rw [ranked_head_back_iff, List.eq_nil_iff_forall_not_mem]
  simp only [mem_rankedSlots, Bool.not_eq_true]

end Sys2Proof.Machine
end

section
/-! From the selected entries to the output: when the top entry is blended and with what, and the channels of the pixel
(45_compositor.md rules R410 to R420). -/

namespace Sys2Proof.Machine

/-! ### The gate of the blend -/

theorem spcccs_lt (c : Cfg2) : c.spcccs < 4 := BitVec.isLt _

/-- The condition of the sprite, by SPCCCS (45_compositor.md rule R412). -/
theorem spriteCond_iff (c : Cfg2) (b : LineBuffers) (x : Nat) :
    spriteCond c b x = true ↔
      (c.spcccs = 0 ∧ (b.dot .sprite x).priority.toNat ≤ c.spccn) ∨
        (c.spcccs = 1 ∧ (b.dot .sprite x).priority.toNat = c.spccn) ∨
        (c.spcccs = 2 ∧ c.spccn ≤ (b.dot .sprite x).priority.toNat) ∨
        (c.spcccs = 3 ∧ (b.sprite x).msbSet = true) := by
  have hlt := spcccs_lt c
  obtain h | h | h | h : c.spcccs = 0 ∨ c.spcccs = 1 ∨ c.spcccs = 2 ∨ c.spcccs = 3 := by omega
  all_goals simp [spriteCond, h]

theorem blends_iff (c : Cfg2) (b : LineBuffers) (x : Nat) (top : Entry) (ta : EntryAttrs) :
    blends c b x top ta = true ↔
      ta.ccen = true ∧ ta.scc = true ∧ b.winCC.getD x false = false ∧
        (top = .slot .sprite → spriteCond c b x = true) := by
  simp only [blends, Bool.and_eq_true, Bool.or_eq_true, Bool.not_eq_true', bne_iff_ne, and_assoc, imp_iff_not_or]

/-! ### The bottom operand -/

/-- The second entry's colour, averaged with the third's in extended mode: what the line colour is laid over
(45_compositor.md rule R414). -/
def underOperand (c : Cfg2) (sa : EntryAttrs) : Option EntryAttrs → Color
  | some t => if c.exccen && sa.ccen then averageBlend sa.col t.col else sa.col
  | none => sa.col

theorem bottomOperand_eq (c : Cfg2) (a : Accumulators) (ta sa : EntryAttrs) (third : Option EntryAttrs) :
    bottomOperand c a ta sa third =
      if ta.lcen then
        (if c.lcccen then ratioBlend a.lineColor (underOperand c sa third) c.lcccrt else a.lineColor)
      else underOperand c sa third := by
  cases third <;> rfl

theorem underOperand_extended {c : Cfg2} {sa : EntryAttrs} (hc : c.exccen = true) (hs : sa.ccen = true)
    (t : EntryAttrs) : underOperand c sa (some t) = averageBlend sa.col t.col := by
  simp [underOperand, hc, hs]

theorem underOperand_plain {c : Cfg2} {sa : EntryAttrs} {third : Option EntryAttrs}
    (h : third = none ∨ c.exccen = false ∨ sa.ccen = false) : underOperand c sa third = sa.col := by
  rcases h with rfl | h | h
  · rfl
  · cases third <;> simp [underOperand, h]
  · cases third <;> simp [underOperand, h]

/-! ### The mix -/

theorem mixColor_unblended {c : Cfg2} {a : Accumulators} {b : LineBuffers} {x : Nat} {top : Entry}
    (h : ¬blends c b x top (entryAttrs c a b x top) = true) (e : Entry) (third : Option Entry) :
    mixColor c a b x top (some e) third = (entryAttrs c a b x top).col :=
  if_neg h

theorem mixColor_blended {c : Cfg2} {a : Accumulators} {b : LineBuffers} {x : Nat} {top : Entry}
    (h : blends c b x top (entryAttrs c a b x top) = true) (e : Entry) (third : Option Entry) :
    let ta := entryAttrs c a b x top
    let sa := entryAttrs c a b x e
    let bottom := bottomOperand c a ta sa (third.map (entryAttrs c a b x))
    mixColor c a b x top (some e) third =
      if c.ccmd then addBlend ta.col bottom else ratioBlend ta.col bottom (if c.ccrtmd then sa.ratio else ta.ratio) :=
  if_pos h

/-! ### The channels of the pixel -/

theorem composePixel_of_ranked {b : LineBuffers} {x : Nat} {top : Entry} {rest : List Entry}
    (h : b.ranked x = top :: rest) (c : Cfg2) (a : Accumulators) :
    let ta := entryAttrs c a b x top
    let mix := mixColor c a b x top rest[0]? rest[1]?
    composePixel c a b x = offsetColor c ta (if shadowed c b x ta then mapChannels (· / 2) mix else mix) := by
  rw [composePixel, h]

/-- The channels after the shadow (45_compositor.md rule R418). -/
theorem shade_toNat (dark : Bool) (p : Color) :
    let sh := if dark then mapChannels (· / 2) p else p
    (sh.r.toNat : Int) = (if dark then (p.r.toNat / 2 : Int) else p.r.toNat) ∧
      (sh.g.toNat : Int) = (if dark then (p.g.toNat / 2 : Int) else p.g.toNat) ∧
      (sh.b.toNat : Int) = (if dark then (p.b.toNat / 2 : Int) else p.b.toNat) := by
  cases dark with
  | false => exact ⟨rfl, rfl, rfl⟩
  | true =>
    obtain ⟨hr, hg, hb⟩ := halved_toNat p
    exact ⟨congrArg Nat.cast hr, congrArg Nat.cast hg, congrArg Nat.cast hb⟩

/-- The number a channel has after the offset of an entry, whose preset is one of the two (45_compositor.md rule
R420). -/
def offsetValue (ta : EntryAttrs) (offsetA offsetB v : Int) : Int :=
  if ta.coen then max 0 (min 255 (v + if ta.cosl then offsetB else offsetA)) else v

theorem offsetColor_toNat (c : Cfg2) (ta : EntryAttrs) (p : Color) :
    ((offsetColor c ta p).r.toNat : Int) = offsetValue ta c.coaR c.cobR p.r.toNat ∧
      ((offsetColor c ta p).g.toNat : Int) = offsetValue ta c.coaG c.cobG p.g.toNat ∧
      ((offsetColor c ta p).b.toNat : Int) = offsetValue ta c.coaB c.cobB p.b.toNat := by
  rw [offsetColor]
  unfold offsetValue
  split
  · split
    · exact ⟨offsetChannel_toNat _ _, offsetChannel_toNat _ _, offsetChannel_toNat _ _⟩
    · exact ⟨offsetChannel_toNat _ _, offsetChannel_toNat _ _, offsetChannel_toNat _ _⟩
  · exact ⟨rfl, rfl, rfl⟩

/-! ### The statement -/

/-- Settles O52: the gate, the bottom operand and the channels each have their own equation. -/
theorem pixelsBlendShadeAndOffset : Obligations.PixelsBlendShadeAndOffset := by
  unfold Obligations.PixelsBlendShadeAndOffset
  refine ⟨fun c a b x => ⟨rfl, fun L hL => ?_, rfl⟩, fun c a b x top third => ⟨rfl, fun e => ?_⟩,
    fun c a b x top rest h => ?_⟩
  · cases L with
    | sprite => exact absurd rfl hL
    | _ => rfl
  · dsimp only
    rw [← spriteCond_iff, ← blends_iff]
    refine ⟨fun h => mixColor_unblended h e third, fun h =>
      ⟨underOperand c (entryAttrs c a b x e) (third.map (entryAttrs c a b x)), _, ?_, fun hplain => ?_, rfl, ?_⟩⟩
    · rintro t rfl hc hs
      exact underOperand_extended hc hs _
    · exact underOperand_plain (hplain.imp_left (by rintro rfl; rfl))
    · rw [← bottomOperand_eq]
      exact mixColor_blended h e third
  · rw [composePixel_of_ranked h c a]
    obtain ⟨hr, hg, hb⟩ := offsetColor_toNat c (entryAttrs c a b x top) _
    obtain ⟨shr, shg, shb⟩ := shade_toNat (shadowed c b x (entryAttrs c a b x top))
      (mixColor c a b x top rest[0]? rest[1]?)
    exact ⟨hr.trans (congrArg _ shr), hg.trans (congrArg _ shg), hb.trans (congrArg _ shb)⟩

end Sys2Proof.Machine
end

section
/-! A command's own state: what an instruction may change, and what it keeps (60_exceptions.md rule R460). -/

namespace Sys2Proof.Machine

/-- Settles O58: an instruction goes on, raising no trigger, or ends the frame, writing no memory; either way CEF is the
one register it may write. -/
theorem commandsTouchOnlyTheirOwnState : Obligations.CommandsTouchOnlyTheirOwnState := by
  unfold Obligations.CommandsTouchOnlyTheirOwnState
  intro i s t e
  rcases exec_cases e with ⟨c, records, ws, rfl, hrendering, -⟩ | ⟨records, rfl⟩
  · exact ⟨rfl, fun id a hid => Arena.writeWords_read8_other hid ws a s.mem, .inl ⟨rfl, rfl, hrendering⟩⟩
  · exact ⟨rfl, fun _ _ _ => rfl, .inr ⟨rfl, rfl, rfl⟩⟩

end Sys2Proof.Machine
end

section
/-! Completion: in an admitted configuration no input is refused (60_exceptions.md rule R450;
93_implementation_defined.md U6, U7). -/

namespace Sys2Proof.Machine

/-- An outcome is a next state. -/
def Completes (o : Host.Outcome State Fault Refusal) : Prop := ∃ t, o = .next t

theorem completes_next (s : State) : Completes (.next s) := ⟨s, rfl⟩

/-- A sequence whose second part always answers completes with its first. -/
theorem Completes.andThen_next {o : Host.Outcome State Fault Refusal} (h : Completes o) (f : State → State) :
    Completes (andThen o fun s => .next (f s)) := by
  obtain ⟨t, rfl⟩ := h
  exact completes_next (f t)

/-! ### Admitted configurations -/

theorem spriteAdmitted_of_admitted {s : State} (h : s.admitted = true) : s.spriteAdmitted = true :=
  ((admitted_iff s).1 h).1

theorem takeInput_admitted (s : State) : s.takeInput.admitted = s.admitted := by
  unfold State.takeInput
  split
  · rfl
  · rfl

theorem spriteAdmitted_exec {s t : State} {i : Instr} (e : exec i s = .next t) :
    t.spriteAdmitted = s.spriteAdmitted := by
  rcases exec_cases e with ⟨_, _, _, rfl, -⟩ | ⟨_, rfl⟩
  · rfl
  · rfl

/-! ### Commands -/

/-- The operation keeps the sprite mode admitted, so the jump mode after it completes too. -/
theorem completes_runCommand (c : Command) {s : State} (h : s.spriteAdmitted = true) : Completes (runCommand c s) := by
  obtain ⟨u, hop⟩ := exec_completes c.op h
  rw [runCommand, hop, andThen_next]
  split
  · exact completes_next u
  · next j _ => exact exec_completes j ((spriteAdmitted_exec hop).trans h)

theorem keepGrant_spriteAdmitted (s : State) (n : Nat) : (s.keepGrant n).spriteAdmitted = s.spriteAdmitted := by
  cases n with
  | zero => rfl
  | succ n => rfl

theorem completes_processCommands (n : Nat) {s : State} (h : s.spriteAdmitted = true) :
    Completes (processCommands n s) := by
  cases n with
  | zero => exact completes_next s
  | succ n =>
    rw [processCommands]
    split
    · exact completes_runCommand _ ((keepGrant_spriteAdmitted s n).trans h)
    · exact completes_next s

/-! ### Phase events -/

theorem completes_renderScanline {s : State} (h : s.admitted = true) (y : Nat) : Completes (renderScanline s y) := by
  obtain ⟨hs, hb⟩ := (admitted_iff s).1 h
  cases hd : s.cfg2.disp with
  | false => exact ⟨_, renderScanline_blank hd y⟩
  | true => exact ⟨_, renderScanline_eq_next.2 (.inr ⟨hd, hs, hb hd, rfl⟩)⟩

theorem completes_enterHActive {s : State} (h : s.admitted = true) : Completes (enterHActive s) := by
  unfold enterHActive
  split
  · rw [frameInit_if]
    exact completes_renderScanline (by exact h) _
  · exact completes_next s

theorem completes_enterHVBlankOut {s : State} (h : s.spriteAdmitted = true) : Completes (enterHVBlankOut s) := by
  unfold enterHVBlankOut
  split
  · exact ⟨_, swap_admitted h⟩
  · exact completes_next s

theorem completes_enterVPhase {s : State} (h : s.spriteAdmitted = true) (v : VPhase) : Completes (enterVPhase v s) := by
  cases v with
  | active => exact completes_next _
  | bottomBorder =>
    exact Completes.andThen_next ⟨_, eraseIfConfigured_admitted (s := s.trigger .vblankStart) h⟩ frameComplete
  | blankingAndSync => exact completes_next _
  | topBorder => exact completes_next _
  | lastLine => exact completes_next _

theorem completes_verticalTransition {s : State} (h : s.spriteAdmitted = true) : Completes (verticalTransition s) := by
  rw [verticalTransition_eq]
  split
  · exact completes_enterVPhase (by exact h) _
  · exact completes_next s

theorem completes_enterHPhase {s : State} (h : s.admitted = true) (p : HPhase) : Completes (enterHPhase p s) := by
  have hs := spriteAdmitted_of_admitted h
  cases p with
  | active => exact completes_enterHActive h
  | rightBorder => exact completes_next _
  | sync => exact completes_next _
  | vblankOut => exact completes_enterHVBlankOut hs
  | leftBorder => exact completes_next _
  | lastDot => exact (completes_verticalTransition (s := s.countLine) hs).andThen_next peripheralCheck

theorem completes_phaseEvent {s : State} (h : s.admitted = true) : Completes (phaseEvent s) :=
  (completes_enterHPhase (s := s.nextPhase) h _).andThen_next State.returnCycles

/-! ### Steps -/

/-- A reset completes in every state: it leaves the display off (70_reset_and_hazards.md rule R483). -/
theorem completes_logicReset (s : State) : Completes (logicReset s) := ⟨_, logicReset_eq s⟩

theorem completes_serve {s : State} (h : s.admitted = true) (i : Input) : Completes (serve i s) := by
  cases i with
  | busRead r a w => exact completes_next _
  | busWrite r a w v => exact completes_next _
  | phaseEvent hd => exact serve_phaseEvent s hd ▸ completes_phaseEvent h
  | commands n => exact completes_processCommands n (spriteAdmitted_of_admitted h)
  | hardReset => exact completes_logicReset _
  | softReset => exact completes_logicReset s
  | dump r => exact completes_next _

/-- Settles O57: taking an input keeps the configuration admitted, and serving one completes, each kind of input by its
own lemma. -/
theorem admittedStepsComplete : Obligations.AdmittedStepsComplete := by
  unfold Obligations.AdmittedStepsComplete
  exact fun s h => completes_serve ((takeInput_admitted s).trans h) s.nextInput

end Sys2Proof.Machine
end

section
/-! The rows of the opcode table: no control word matches two operations or two jump modes (spec/opcode_table.json). -/

namespace Sys2Proof

/-- What a row of the opcode table says: whether it is a jump mode's, its mask and its match value. -/
structure OpcodeRow where
  isJump : Bool
  mask : Word
  pattern : Word

/-- The rows of spec/opcode_table.json, in their order. -/
def opcodeRows : List OpcodeRow :=
  [⟨false, 0x8000, 0x8000⟩, ⟨false, 0xC000, 0x4000⟩, ⟨false, 0xC00F, 0x0000⟩, ⟨false, 0xC00F, 0x0001⟩,
    ⟨false, 0xC00F, 0x0002⟩, ⟨false, 0xC00F, 0x0004⟩, ⟨false, 0xC00F, 0x0005⟩, ⟨false, 0xC00F, 0x0006⟩,
    ⟨false, 0xC00F, 0x0008⟩, ⟨false, 0xC00F, 0x0009⟩, ⟨false, 0xC00F, 0x000A⟩, ⟨false, 0xC00F, 0x0003⟩,
    ⟨false, 0xC00F, 0x0007⟩, ⟨false, 0xC00F, 0x000B⟩, ⟨false, 0xC00F, 0x000C⟩, ⟨false, 0xC00F, 0x000D⟩,
    ⟨false, 0xC00F, 0x000E⟩, ⟨false, 0xC00F, 0x000F⟩, ⟨true, 0xB000, 0x0000⟩, ⟨true, 0xB000, 0x1000⟩,
    ⟨true, 0xB000, 0x1000⟩, ⟨true, 0xB000, 0x2000⟩, ⟨true, 0xB000, 0x3000⟩]

/-- An instruction's row stands in the table at its number. -/
theorem row_mem_opcodeRows (i : Instr) : (⟨i.isJump, rowMask i, rowMatch i⟩, i.row) ∈ opcodeRows.zipIdx :=
  List.mem_zipIdx_iff_getElem?.2 (by cases i <;> rfl)

/-- Two patterns that one word matches agree under each other's mask. -/
theorem patterns_agree {w m n p q : Word} (hp : w &&& m = p) (hq : w &&& n = q) : p &&& n = q &&& m := by
  rw [← hp, ← hq, BitVec.and_assoc, BitVec.and_assoc, BitVec.and_comm m n]

/-- Rows of one kind whose patterns agree are one row, or the two rows of Assign. -/
theorem opcodeRows_overlap :
    ∀ r ∈ opcodeRows.zipIdx, ∀ r' ∈ opcodeRows.zipIdx, r.1.isJump = r'.1.isJump →
      r.1.pattern &&& r'.1.mask = r'.1.pattern &&& r.1.mask →
      r.2 = r'.2 ∨ (r.2 = 19 ∧ r'.2 = 20) ∨ (r.2 = 20 ∧ r'.2 = 19) := by
  decide

/-- Settles O3: a word in two rows makes their patterns agree on the bits both masks keep, and the table has no two such
rows of one kind but those of Assign. -/
theorem rowsNeverOverlap : Obligations.RowsNeverOverlap := by
  unfold Obligations.RowsNeverOverlap
  intro w i j hkind hi hj
  exact opcodeRows_overlap _ (row_mem_opcodeRows i) _ (row_mem_opcodeRows j) hkind (patterns_agree hi hj)

end Sys2Proof
end

section
/-! The two resets: what each leaves in every part of the state, and the state after reset (70_reset_and_hazards.md
rules R480 to R484). -/

namespace Sys2Proof.Machine

/-! ### The soft reset -/

/-- With no field stored, every index of REG2 reads 0. -/
theorem memRead16_reg2_of_unstored {s : State} (h : s.cfg2 = []) (k : Nat) : (memRead16 s .reg2 (2 * k)).2 = 0 := by
  rw [memRead16_reg2_value, h]
  exact ite_self 0

/-- Settles O40: the reset answers with the state of `logicReset_eq`, each part of which is written out there; with no
field stored REG2 reads 0, and the one row of the fresh frame is blank. -/
theorem softResetKeepsTheMemories : Obligations.SoftResetKeepsTheMemories := by
  unfold Obligations.SoftResetKeepsTheMemories
  intro s
  refine ⟨_, logicReset_eq s, rfl, rfl, rfl, rfl, rfl, rfl, rfl, fun k _ => memRead16_reg2_of_unstored rfl k, rfl,
    rfl, rfl, rfl, rfl, rfl, fun x hx => ?_, rfl, rfl, rfl⟩
  exact pixel_writeRow_blank { width := 320, height := 224, fresh := s.freshCount, rows := [] } 0 hx

/-! ### The hard reset -/

/-- A byte inside a memory is the listed one, else the default pattern's. -/
theorem Arena.read8_of_lt (m : Arena) {id : MemId} {a : Nat} (h : a < id.size) :
    m.read8 id a = (lookupCell (m.get id) a).getD (unlistedByte id a) := by
  rw [Arena.read8, readCell, Nat.mod_eq_of_lt h]

/-- A byte of a memory without listed cells is the background's. -/
theorem read8_of_unlisted {m : Arena} {id : MemId} (h : m.get id = []) (a : Nat) :
    m.read8 id a = unlistedByte id (a % id.size) := by
  rw [Arena.read8, h]
  rfl

/-- The words of the default pattern of VRAM1 (10_state.md rule R26). -/
theorem read16_vram1_of_unlisted {m : Arena} (h : m.vram1 = []) {a : Nat} (ha : a < 0x80000) (heven : a % 2 = 0) :
    m.read16 .vram1 a = if a % 0x20 = 0 then 0x8000 else 0x5555 := by
  have hlow : a % 0x80000 = a := Nat.mod_eq_of_lt ha
  have hhigh : (a + 1) % 0x80000 = a + 1 := Nat.mod_eq_of_lt (by omega)
  have hbyte (b : Nat) : m.read8 .vram1 b = unlistedByte .vram1 (b % 0x80000) := read8_of_unlisted (id := .vram1) h b
  rw [Arena.read16, hbyte, hbyte, hlow, hhigh, unlistedByte, unlistedByte, if_neg (by omega : ¬(a + 1) % 32 = 0)]
  by_cases hfirst : a % 32 = 0
  · rw [if_pos hfirst, if_pos (by omega), if_pos hfirst]
    rfl
  · rw [if_neg hfirst, if_neg (by omega), if_neg (by omega), if_neg hfirst]
    rfl

/-- Settles O41: the reset answers with the state of `logicReset_eq` over the filled memories, whose bytes are the
pattern's; the rest is what that equation gives from the unfilled state. -/
theorem hardResetFillsTheMemories : Obligations.HardResetFillsTheMemories := by
  unfold Obligations.HardResetFillsTheMemories
  intro s
  have hbyte (id : MemId) (a : Nat) (h : a < id.size) := (resetArena s.params).read8_of_lt h
  refine ⟨_, logicReset_eq _, hbyte .vram1, hbyte .vram2, hbyte .cram,
    fun a => ⟨read8_of_unlisted (id := .fb0) rfl a, read8_of_unlisted (id := .fb1) rfl a⟩, fun hp => ?_, rfl, rfl,
    rfl, fun u hu => ?_⟩
  · have hvram2 : (resetArena s.params).get .vram2 = [] := congrArg Params.fillVram2 hp
    have hcram : (resetArena s.params).get .cram = [] := congrArg Params.fillCram hp
    exact ⟨fun a => read16_vram1_of_unlisted (congrArg Params.fillVram1 hp),
      fun a => ⟨read8_of_unlisted hvram2 a, read8_of_unlisted hcram a⟩⟩
  · rw [softReset_eq, logicReset_eq] at hu
    cases hu
    exact ⟨rfl, rfl, rfl, rfl, rfl, rfl, rfl⟩

/-! ### The state after reset -/

/-- A frame initialised from a zero configuration over the default pattern has the accumulators of the reset. -/
theorem frameInitAcc_reset : frameInitAcc [] State.reset.mem Accumulators.reset = Accumulators.reset := by
  decide

/-- A logic reset of the state after reset makes the same state, with the fresh frame of the next number. -/
theorem logicReset_reset (n : Nat) :
    logicReset { State.reset with freshCount := n } =
      .next { State.reset with outFrame := { State.reset.outFrame with fresh := n }, freshCount := n + 1 } := by
  rw [logicReset_eq, show ({ State.reset with freshCount := n } : State).mem = State.reset.mem from rfl,
    frameInitAcc_reset]
  rfl

/-- Settles O42: the state after reset is what a logic reset makes of it before its frame is numbered, so it is legal; a
hard reset is the same logic reset one number later. -/
theorem resetStateIsLegal : Obligations.ResetStateIsLegal := by
  unfold Obligations.ResetStateIsLegal
  refine ⟨?_, by decide, ?_⟩
  · exact legal_resets (s := { State.reset with freshCount := 0 }) (by decide) (by decide) (logicReset_reset 0)
  · exact (hardReset_eq State.reset).trans (logicReset_reset 1)

end Sys2Proof.Machine
end
